-- ==== Sys2Proof/Word.lean ====
section
/-! DEFINITION. The words of the block (00_scope.md R7, R10): bytes, 16-bit fields, endpoint numbers, device
addresses, and the four speeds. -/

namespace Sys2Proof

/-- A byte is 8 bits (R7). -/
abbrev Byte := BitVec 8

/-- A 16-bit field of the SETUP packet (R7, R10: `u16`). -/
abbrev Half := BitVec 16

/-- An endpoint number is 4 bits (R6, R60). -/
abbrev EpNo := BitVec 4

/-- A device address is 7 bits (R7). -/
abbrev DevAddr := BitVec 7

/-- A port's speed, "one of {High, Full, Low, SuperSpeed}" (R8). -/
inductive Speed where
  | high | full | low | superSpeed
  deriving DecidableEq, Repr, Inhabited

end Sys2Proof
end

