-- ==== Sys2Proof/Config.lean ====
section
/-! DEFINITION. What is fixed for the machine and not state: how many endpoint numbers the 4-bit field has (00_scope.md
R6), the length of a whole turn, and the free values, which have no body. The parameters of R6 and R9 are plain data that
State carries (Machine/Params.lean). -/

namespace Sys2Proof.Config

/-- How many endpoint numbers 4 bits name: the most that `NEP` can be (R6, R60, D4). -/
abbrev epNumbers : Nat := 16

/-- The most steps an agent takes in one turn when State asks for no shorter turn (DESIGN CHOICE, log 29: what is
left of a longer run goes on in the agent's next turn). -/
def turnSteps : Nat := 1048576

/-- FREE VALUE: the byte a pop from an empty FIFO returns (20_memory.md R53, U1: a draw); applied to State's counter. -/
opaque freeByte : Nat → Byte

/-- FREE VALUE: the speed the bus agent supplies when boot, a hook or APP calls CONNECT (42_register_ops.md R135, U11);
applied to State's counter. -/
opaque freeSpeed : Nat → Speed

/-- FREE VALUE: `HW[p].speed` at power-on, unspecified until the bus agent writes it (10_state.md R42, U5). -/
opaque powerOnSpeed : Nat → Speed

end Sys2Proof.Config
end

