-- ==== Sys2Proof/Syntax.lean ====
section
/-! DEFINITION. The terms of the block: sources, groups, directions, the SETUP packet, events, the register-layer and
I/O operations that hooks and APP may issue, and Instr with one constructor for each row of spec/opcode_table.json. -/

namespace Sys2Proof

/-- A port number. "`p` always ranges over port numbers `0..NPORTS-1`" (R12): NPORTS is a parameter (R6), so a number names
a port of a machine that has as many (`portExists`; log 27). -/
abbrev Port := Nat

/-- An interrupt source, named after its register group (10_state.md R30). -/
inductive Source where
  | ctl | epc | out | inp
  deriving DecidableEq, Repr

/-- A register group that has a FIFO (42_register_ops.md R138). -/
inductive FifoGroup where
  | epc | inp | out
  deriving DecidableEq, Repr

/-- A FIFO that READ can read (45_endpoint_io.md R240). -/
inductive ReadFifo where
  | out | ctrl
  deriving DecidableEq, Repr

/-- A direction seen from the host: OUT to the device, IN to the host (glossary; 10_state.md R35). -/
inductive Dir where
  | out | inp
  deriving DecidableEq, Repr

/-- `Recipient` (30_encoding.md R82). -/
inductive Recipient where
  | device | interface | endpoint | other
  | reserved (n : BitVec 5)
  deriving DecidableEq, Repr

/-- `RequestType` (30_encoding.md R83). -/
inductive RequestType where
  | standard | classType | vendor | reserved
  deriving DecidableEq, Repr

/-- `Direction` (30_encoding.md R84). -/
inductive Direction where
  | hostToDevice | deviceToHost
  deriving DecidableEq, Repr

/-- `Request` (30_encoding.md R85). -/
inductive Request where
  | getStatus | clearFeature | setFeature | setAddress | getDescriptor | setDescriptor
  | getConfiguration | setConfiguration | getInterface | setInterface | synchronizeFrame
  | reserved (code : Byte)
  | classOrVendor (code : Byte)
  deriving DecidableEq, Repr

/-- A feature selector (30_encoding.md R89, 41_setup_decode.md R118). -/
inductive Feature where
  | endpointHalt | deviceRemoteWakeup
  | unknown (value : Half)
  deriving DecidableEq, Repr

/-- One of the three hooks (00_scope.md R9). -/
inductive HookKind where
  | classHook | vendorHook | stringHook
  deriving DecidableEq, Repr

/-- The five raw fields of a SETUP packet (30_encoding.md R80). -/
structure SetupPacket where
  requestType : Byte
  request : Byte
  value : Half
  index : Half
  length : Half
  deriving DecidableEq, Repr

/-- The eight bytes of a SETUP packet in wire order (`SETUP8`, 30_encoding.md R80); also the latch `x[0..7]` (R21). -/
structure SetupBytes where
  x0 : Byte
  x1 : Byte
  x2 : Byte
  x3 : Byte
  x4 : Byte
  x5 : Byte
  x6 : Byte
  x7 : Byte
  deriving DecidableEq, Repr

/-- An event of the queue (30_encoding.md R92). -/
inductive Event where
  | busReset (p : Port)
  | receiveControl (p : Port) (e : EpNo)
  | receivePacket (p : Port) (e : EpNo)
  | sendComplete (p : Port) (e : EpNo)
  | unknownInterrupt (raw : Nat)
  | error
  deriving DecidableEq, Repr

/-- An operation of 42_register_ops.md or 45_endpoint_io.md without its port: what a hook or APP may issue on its port
(00_scope.md R9, 44_control_engine.md R211), and what the pseudocode of 43 and 44 calls. CONNECT's speed is a free input
here (log 10). -/
inductive PortOp where
  | enableInterrupt (src : Source)
  | disableInterrupt (src : Source)
  | clearPending (src : Source)
  | isPending (src : Source)
  | connect
  | disconnect
  | ctlSpeed
  | resetFifo (g : FifoGroup)
  | setAddress (a : DevAddr)
  | stallIn (e : EpNo)
  | stallOut (e : EpNo)
  | unstallIn (e : EpNo)
  | unstallOut (e : EpNo)
  | clearHalt (ea : Byte)
  | isStalled (d : Dir) (e : EpNo)
  | outHasData
  | outPopByte
  | ctrlHasData
  | ctrlPopByte
  | ctrlEpno
  | outEpno
  | outPrime (e : EpNo)
  | inPushByte (b : Byte)
  | inCommit (e : EpNo)
  | inIsIdle
  | inHasData
  | inEpno
  | read (f : ReadFifo) (len : Nat)
  | readControl
  | write (ep : EpNo) (bytes : List Byte) (size : Nat)
  | writeZlp (ep : EpNo)
  deriving DecidableEq, Repr

/-- A row of format `SETUP64` in spec/opcode_table.json (30_encoding.md R87, R99): the handler rows and their sub-cases. -/
inductive RequestRow where
  | getStatus | clearFeature | reservedStd2 | setFeature | reservedStd4 | setAddress
  | getDescriptor | setDescriptor | getConfiguration | setConfiguration | getInterface | setInterface | synchFrame
  | classOrVendorStd13 | classOrVendorStd14To15 | classOrVendorStd16To31 | classOrVendorStd32To63
  | classOrVendorStd64To127 | classOrVendorStd128To255 | classOrVendorClass | classOrVendorVendor | reservedType3
  | getDescriptorDevice | getDescriptorConfiguration | getDescriptorString | getDescriptorDeviceQualifier
  | clearFeatureEndpointHalt | clearFeatureDeviceRemoteWakeup
  | setFeatureEndpointHalt | setFeatureDeviceRemoteWakeup
  deriving DecidableEq, Repr

/-- A request handler of the engine, `REQ_*` (30_encoding.md R99; 44_control_engine.md R198 to R210). -/
inductive Handler where
  | getStatus | clearFeature | reserved | setFeature | setAddress | getDescriptor | setDescriptor
  | getConfiguration | setConfiguration | getInterface | setInterface | synchFrame | classOrVendor
  deriving DecidableEq, Repr

/-- A handler of the dispatcher, as `PEND4` selects it (30_encoding.md R96; 43_dispatcher_queue.md R171). -/
inductive IrqHandler where
  | busReset | receiveControl | receivePacket | sendComplete | unknown
  deriving DecidableEq, Repr

/-- A tag of `EVENT` (30_encoding.md R92). -/
inductive EventTag where
  | busReset | receiveControl | receivePacket | sendComplete | unknownInterrupt | error
  deriving DecidableEq, Repr

/-- One constructor for each row of spec/opcode_table.json. Rows of one operation index are operations; rows with a dot
are sub-cases or constants of the operation their rule names (30_encoding.md R96). -/
inductive Instr where
  -- 41_setup_decode.md: the decode and encode functions (OPIDX 0x01 to 0x0A)
  /-- `DEC_RECIPIENT` (R110). -/
  | decRecipient (rt : Byte)
  /-- `DEC_TYPE` (R111). -/
  | decType (rt : Byte)
  /-- `DEC_DIRECTION` (R112). -/
  | decDirection (rt : Byte)
  /-- `DEC_REQUEST` (R113). -/
  | decRequest (rq : Byte)
  /-- `DEC_SETUP` (R114). -/
  | decSetup (b : SetupBytes)
  /-- `ENC_SETUP` (R115). -/
  | encSetup (s : SetupPacket)
  /-- `DESC_SELECT` (R117). -/
  | descSelect (s : SetupPacket)
  /-- `FEATURE_SELECT` (R118). -/
  | featureSelect (s : SetupPacket)
  /-- `EP_ADDR_SPLIT` (R119). -/
  | epAddrSplit (ea : Byte)
  /-- `DEV_ADDR` (R120). -/
  | devAddr (s : SetupPacket)
  -- 42_register_ops.md: the register-layer operations (OPIDX 0x10 to 0x2A)
  /-- `ENABLE_INTERRUPT` (R131). -/
  | enableInterrupt (p : Port) (src : Source)
  /-- `DISABLE_INTERRUPT` (R132). -/
  | disableInterrupt (p : Port) (src : Source)
  /-- `CLEAR_PENDING` (R133). -/
  | clearPending (p : Port) (src : Source)
  /-- `IS_PENDING` (R134). -/
  | isPending (p : Port) (src : Source)
  /-- `CONNECT` (R135). -/
  | connect (p : Port) (sp : Speed)
  /-- `DISCONNECT` (R136). -/
  | disconnect (p : Port)
  /-- `CTL_SPEED` (R137). -/
  | ctlSpeed (p : Port)
  /-- `RESET_FIFO` (R138). -/
  | resetFifo (p : Port) (g : FifoGroup)
  /-- `SET_ADDRESS` (R139). -/
  | setAddress (p : Port) (a : DevAddr)
  /-- `STALL_IN` (R140). -/
  | stallIn (p : Port) (e : EpNo)
  /-- `STALL_OUT` (R141). -/
  | stallOut (p : Port) (e : EpNo)
  /-- `UNSTALL_IN` (R142). -/
  | unstallIn (p : Port) (e : EpNo)
  /-- `UNSTALL_OUT` (R143). -/
  | unstallOut (p : Port) (e : EpNo)
  /-- `CLEAR_HALT` (R144). -/
  | clearHalt (p : Port) (ea : Byte)
  /-- `OUT_HAS_DATA` (R145). -/
  | outHasData (p : Port)
  /-- `OUT_POP_BYTE` (R146). -/
  | outPopByte (p : Port)
  /-- `CTRL_HAS_DATA` (R147). -/
  | ctrlHasData (p : Port)
  /-- `CTRL_POP_BYTE` (R148). -/
  | ctrlPopByte (p : Port)
  /-- `CTRL_EPNO` (R149). -/
  | ctrlEpno (p : Port)
  /-- `OUT_EPNO` (R150). -/
  | outEpno (p : Port)
  /-- `OUT_PRIME` (R151). -/
  | outPrime (p : Port) (e : EpNo)
  /-- `IN_PUSH_BYTE` (R152). -/
  | inPushByte (p : Port) (b : Byte)
  /-- `IN_COMMIT` (R153). -/
  | inCommit (p : Port) (e : EpNo)
  /-- `IN_IS_IDLE` (R154). -/
  | inIsIdle (p : Port)
  /-- `IN_HAS_DATA` (R155). -/
  | inHasData (p : Port)
  /-- `IS_STALLED` (R156). -/
  | isStalled (p : Port) (d : Dir) (e : EpNo)
  /-- `IN_EPNO` (R157). -/
  | inEpno (p : Port)
  -- 42_register_ops.md section 7: the bus-agent moves (OPIDX 0x30 to 0x35)
  /-- `HOST_BUS_RESET` (R158). -/
  | hostBusReset (p : Port) (sp : Speed)
  /-- `HOST_SETUP` (R159). -/
  | hostSetup (p : Port) (a : DevAddr) (e : EpNo) (bytes : List Byte)
  /-- `HOST_OUT_PACKET` (R160). -/
  | hostOutPacket (p : Port) (a : DevAddr) (e : EpNo) (bytes : List Byte)
  /-- `HOST_IN_TAKE` (R161). -/
  | hostInTake (p : Port) (a : DevAddr) (e : EpNo)
  /-- `HOST_SEES_STALL` (R162). -/
  | hostSeesStall (p : Port) (a : DevAddr) (d : Dir) (e : EpNo)
  /-- `SPURIOUS_IRQ` (R163). -/
  | spuriousIrq (extra : Nat)
  -- 43_dispatcher_queue.md: dispatcher, queue, main loop (OPIDX 0x40 to 0x48)
  /-- `IRQ_ENTRY` (R170). -/
  | irqEntry
  /-- `IRQ_BUS_RESET` (R172). -/
  | irqBusReset (p : Port)
  /-- `IRQ_RECEIVE_CONTROL` (R173). -/
  | irqReceiveControl (p : Port)
  /-- `IRQ_RECEIVE_PACKET` (R174). -/
  | irqReceivePacket (p : Port)
  /-- `IRQ_SEND_COMPLETE` (R175). -/
  | irqSendComplete (p : Port)
  /-- `IRQ_UNKNOWN` (R176). -/
  | irqUnknown (extra : Nat)
  /-- `EVQ_PUSH` (R178). -/
  | evqPush (ev : Event)
  /-- `EVQ_POP` (R179). -/
  | evqPop
  /-- `MAIN_STEP` (R181). -/
  | mainStep
  -- 44_control_engine.md: the control-transfer engine (OPIDX 0x50 to 0x5A)
  /-- `CTE_BUS_RESET` (R191). -/
  | cteBusReset (p : Port)
  /-- `CTE_RECEIVE_CONTROL` (R192). -/
  | cteReceiveControl (p : Port)
  /-- `CTE_DISPATCH` (R193). -/
  | cteDispatch (p : Port)
  /-- `ACK_STATUS_STAGE` (R195). -/
  | ackStatusStage (p : Port)
  /-- `STALL_CONTROL_REQUEST` (R196). -/
  | stallControlRequest (p : Port)
  /-- `SEND_RESPONSE` (R197). -/
  | sendResponse (p : Port) (bytes : List Byte)
  /-- `DATA_OUT_BEGIN` (R212). -/
  | dataOutBegin (p : Port)
  /-- `CTE_RECEIVE_PACKET` (R213). -/
  | cteReceivePacket (p : Port)
  /-- `CTE_SEND_COMPLETE` (R214). -/
  | cteSendComplete (p : Port)
  /-- `CTE_DISCONNECT` (R217). -/
  | cteDisconnect (p : Port)
  /-- `RUN_HOOK` (R211). -/
  | runHook (p : Port) (h : HookKind) (k : Byte) (data : List Byte)
  -- 45_endpoint_io.md: the endpoint I/O primitives (OPIDX 0x60 to 0x63)
  /-- `READ` (R240). -/
  | read (p : Port) (f : ReadFifo) (len : Nat)
  /-- `WRITE` (R242). -/
  | write (p : Port) (ep : EpNo) (bytes : List Byte) (size : Nat)
  /-- `WRITE_ZLP` (R244). -/
  | writeZlp (p : Port) (ep : EpNo)
  /-- `READ_CONTROL` (R246). -/
  | readControl (p : Port)
  -- 30_encoding.md R99: the request rows (SETUP64): the port and the packet
  /-- `REQ_GET_STATUS` (R198). -/
  | reqGetStatus (p : Port) (s : SetupPacket)
  /-- `REQ_CLEAR_FEATURE` (R199). -/
  | reqClearFeature (p : Port) (s : SetupPacket)
  /-- `REQ_RESERVED.STD_2` (R209). -/
  | reqReservedStd2 (p : Port) (s : SetupPacket)
  /-- `REQ_SET_FEATURE` (R200). -/
  | reqSetFeature (p : Port) (s : SetupPacket)
  /-- `REQ_RESERVED.STD_4` (R209). -/
  | reqReservedStd4 (p : Port) (s : SetupPacket)
  /-- `REQ_SET_ADDRESS` (R201). -/
  | reqSetAddress (p : Port) (s : SetupPacket)
  /-- `REQ_GET_DESCRIPTOR` (R202). -/
  | reqGetDescriptor (p : Port) (s : SetupPacket)
  /-- `REQ_SET_DESCRIPTOR` (R203). -/
  | reqSetDescriptor (p : Port) (s : SetupPacket)
  /-- `REQ_GET_CONFIGURATION` (R204). -/
  | reqGetConfiguration (p : Port) (s : SetupPacket)
  /-- `REQ_SET_CONFIGURATION` (R205). -/
  | reqSetConfiguration (p : Port) (s : SetupPacket)
  /-- `REQ_GET_INTERFACE` (R206). -/
  | reqGetInterface (p : Port) (s : SetupPacket)
  /-- `REQ_SET_INTERFACE` (R207). -/
  | reqSetInterface (p : Port) (s : SetupPacket)
  /-- `REQ_SYNCH_FRAME` (R208). -/
  | reqSynchFrame (p : Port) (s : SetupPacket)
  /-- `REQ_CLASS_OR_VENDOR.STD_13` (R210). -/
  | reqClassOrVendorStd13 (p : Port) (s : SetupPacket)
  /-- `REQ_CLASS_OR_VENDOR.STD_14_15` (R210). -/
  | reqClassOrVendorStd14To15 (p : Port) (s : SetupPacket)
  /-- `REQ_CLASS_OR_VENDOR.STD_16_31` (R210). -/
  | reqClassOrVendorStd16To31 (p : Port) (s : SetupPacket)
  /-- `REQ_CLASS_OR_VENDOR.STD_32_63` (R210). -/
  | reqClassOrVendorStd32To63 (p : Port) (s : SetupPacket)
  /-- `REQ_CLASS_OR_VENDOR.STD_64_127` (R210). -/
  | reqClassOrVendorStd64To127 (p : Port) (s : SetupPacket)
  /-- `REQ_CLASS_OR_VENDOR.STD_128_255` (R210). -/
  | reqClassOrVendorStd128To255 (p : Port) (s : SetupPacket)
  /-- `REQ_CLASS_OR_VENDOR.CLASS` (R210). -/
  | reqClassOrVendorClass (p : Port) (s : SetupPacket)
  /-- `REQ_CLASS_OR_VENDOR.VENDOR` (R210). -/
  | reqClassOrVendorVendor (p : Port) (s : SetupPacket)
  /-- `REQ_RESERVED.TYPE_3` (R209). -/
  | reqReservedType3 (p : Port) (s : SetupPacket)
  /-- `REQ_GET_DESCRIPTOR.DEVICE` (R202). -/
  | reqGetDescriptorDevice (p : Port) (s : SetupPacket)
  /-- `REQ_GET_DESCRIPTOR.CONFIGURATION` (R202). -/
  | reqGetDescriptorConfiguration (p : Port) (s : SetupPacket)
  /-- `REQ_GET_DESCRIPTOR.STRING` (R202). -/
  | reqGetDescriptorString (p : Port) (s : SetupPacket)
  /-- `REQ_GET_DESCRIPTOR.DEVICE_QUALIFIER` (R202). -/
  | reqGetDescriptorDeviceQualifier (p : Port) (s : SetupPacket)
  /-- `REQ_CLEAR_FEATURE.ENDPOINT_HALT` (R199). -/
  | reqClearFeatureEndpointHalt (p : Port) (s : SetupPacket)
  /-- `REQ_CLEAR_FEATURE.DEVICE_REMOTE_WAKEUP` (R199). -/
  | reqClearFeatureDeviceRemoteWakeup (p : Port) (s : SetupPacket)
  /-- `REQ_SET_FEATURE.ENDPOINT_HALT` (R200). -/
  | reqSetFeatureEndpointHalt (p : Port) (s : SetupPacket)
  /-- `REQ_SET_FEATURE.DEVICE_REMOTE_WAKEUP` (R200). -/
  | reqSetFeatureDeviceRemoteWakeup (p : Port) (s : SetupPacket)
  -- 30_encoding.md: the rows of constants (RT8, REQ8, VALUE16, EPADDR8, PEND4, EVENT, SPEED2)
  /-- `RECIPIENT.DEVICE` (R110). -/
  | recipientDevice (rt : Byte)
  /-- `RECIPIENT.INTERFACE` (R110). -/
  | recipientInterface (rt : Byte)
  /-- `RECIPIENT.ENDPOINT` (R110). -/
  | recipientEndpoint (rt : Byte)
  /-- `RECIPIENT.OTHER` (R110). -/
  | recipientOther (rt : Byte)
  /-- `RECIPIENT.RESERVED_4_7` (R110). -/
  | recipientReserved4To7 (rt : Byte)
  /-- `RECIPIENT.RESERVED_8_15` (R110). -/
  | recipientReserved8To15 (rt : Byte)
  /-- `RECIPIENT.RESERVED_16_31` (R110). -/
  | recipientReserved16To31 (rt : Byte)
  /-- `TYPE.STANDARD` (R111). -/
  | typeStandard (rt : Byte)
  /-- `TYPE.CLASS` (R111). -/
  | typeClass (rt : Byte)
  /-- `TYPE.VENDOR` (R111). -/
  | typeVendor (rt : Byte)
  /-- `TYPE.RESERVED` (R111). -/
  | typeReserved (rt : Byte)
  /-- `DIRECTION.HOST_TO_DEVICE` (R112). -/
  | directionHostToDevice (rt : Byte)
  /-- `DIRECTION.DEVICE_TO_HOST` (R112). -/
  | directionDeviceToHost (rt : Byte)
  /-- `REQUEST.GET_STATUS` (R113). -/
  | requestGetStatus
  /-- `REQUEST.CLEAR_FEATURE` (R113). -/
  | requestClearFeature
  /-- `REQUEST.RESERVED_2` (R113). -/
  | requestReserved2
  /-- `REQUEST.SET_FEATURE` (R113). -/
  | requestSetFeature
  /-- `REQUEST.RESERVED_4` (R113). -/
  | requestReserved4
  /-- `REQUEST.SET_ADDRESS` (R113). -/
  | requestSetAddress
  /-- `REQUEST.GET_DESCRIPTOR` (R113). -/
  | requestGetDescriptor
  /-- `REQUEST.SET_DESCRIPTOR` (R113). -/
  | requestSetDescriptor
  /-- `REQUEST.GET_CONFIGURATION` (R113). -/
  | requestGetConfiguration
  /-- `REQUEST.SET_CONFIGURATION` (R113). -/
  | requestSetConfiguration
  /-- `REQUEST.GET_INTERFACE` (R113). -/
  | requestGetInterface
  /-- `REQUEST.SET_INTERFACE` (R113). -/
  | requestSetInterface
  /-- `REQUEST.SYNCHRONIZE_FRAME` (R113). -/
  | requestSynchronizeFrame
  /-- `REQUEST.CLASS_OR_VENDOR_13` (R113). -/
  | requestClassOrVendor13
  /-- `REQUEST.CLASS_OR_VENDOR_14_15` (R113). -/
  | requestClassOrVendor14To15 (rq : Byte)
  /-- `REQUEST.CLASS_OR_VENDOR_16_31` (R113). -/
  | requestClassOrVendor16To31 (rq : Byte)
  /-- `REQUEST.CLASS_OR_VENDOR_32_63` (R113). -/
  | requestClassOrVendor32To63 (rq : Byte)
  /-- `REQUEST.CLASS_OR_VENDOR_64_127` (R113). -/
  | requestClassOrVendor64To127 (rq : Byte)
  /-- `REQUEST.CLASS_OR_VENDOR_128_255` (R113). -/
  | requestClassOrVendor128To255 (rq : Byte)
  /-- `FEATURE.ENDPOINT_HALT` (R118). -/
  | featureEndpointHalt
  /-- `FEATURE.DEVICE_REMOTE_WAKEUP` (R118). -/
  | featureDeviceRemoteWakeup
  /-- `EPADDR.OUT` (R119). -/
  | epaddrOut (ea : Byte)
  /-- `EPADDR.IN` (R119). -/
  | epaddrIn (ea : Byte)
  /-- `DEV_ADDR.VALID` (R120). -/
  | devAddrValid (v : Half)
  /-- `PEND4.BUS_RESET` (R172). -/
  | pend4BusReset (v : BitVec 4)
  /-- `PEND4.RECEIVE_CONTROL` (R173). -/
  | pend4ReceiveControl (v : BitVec 4)
  /-- `PEND4.RECEIVE_PACKET` (R174). -/
  | pend4ReceivePacket (v : BitVec 4)
  /-- `PEND4.SEND_COMPLETE` (R175). -/
  | pend4SendComplete (v : BitVec 4)
  /-- `PEND4.NONE` (R176). -/
  | pend4None (v : BitVec 4)
  /-- `EVENT.BUS_RESET` (R92). -/
  | eventBusReset
  /-- `EVENT.RECEIVE_CONTROL` (R92). -/
  | eventReceiveControl
  /-- `EVENT.RECEIVE_PACKET` (R92). -/
  | eventReceivePacket
  /-- `EVENT.SEND_COMPLETE` (R92). -/
  | eventSendComplete
  /-- `EVENT.UNKNOWN_INTERRUPT` (R92). -/
  | eventUnknownInterrupt
  /-- `EVENT.ERROR` (R92). -/
  | eventError
  /-- `SPEED.HIGH` (R8). -/
  | speedHigh
  /-- `SPEED.FULL` (R8). -/
  | speedFull
  /-- `SPEED.LOW` (R8). -/
  | speedLow
  /-- `SPEED.SUPERSPEED` (R8). -/
  | speedSuperspeed
  deriving DecidableEq, Repr

/-- What a word of the table is read as: its format (30_encoding.md R80, R87, R90, R92, R96), and for `RT8` and `VALUE16`
which field of it the row is about. The same bits are a row of several formats; no bit of a word tells them apart
(log 4). -/
inductive View where
  | opidx
  | setup64
  | rt8Recipient
  | rt8Type
  | rt8Direction
  | req8
  | value16Feature
  | value16DevAddr
  | epaddr8
  | pend4
  | event
  | speed2
  deriving DecidableEq, Repr

/-- A stimulus not yet taken (30_encoding.md R98): a word, byte 0 first, and what it is to be read as (log 1). -/
structure Stimulus where
  view : View
  bytes : List Byte
  deriving DecidableEq, Repr

end Sys2Proof
end

