-- ==== Sys2Proof/Machine/Params.lean ====
section
/-! DEFINITION. The parameters of 00_scope.md R6 and R9: the numbers of ports and of endpoints, capacities, packet sizes,
the descriptor tables, the hooks and the application. All are plain data carried in State and written by no operation
(10_state.md R39; log 11). -/

namespace Sys2Proof.Machine

/-- `EP0_MPS(speed)` (R6). -/
structure PacketSizes where
  high : Nat
  full : Nat
  low : Nat
  superSpeed : Nat
  deriving DecidableEq, Repr

/-- `TABLES` (R9): the blobs, the two lookups and `config_valid` as association lists (log 11). -/
structure Tables where
  device : List Byte
  qualifier : Option (List Byte)
  config : List ((Speed × Byte) × List Byte)
  string : List (Byte × List Byte)
  configValid : List (Speed × Byte)
  deriving DecidableEq, Repr

/-- The result of a hook (44_control_engine.md R211). -/
inductive HookResult where
  | reject
  | respond (bytes : List Byte)
  | consumed (ops : List PortOp)
  deriving DecidableEq, Repr

/-- The arguments `(p, s, k, data)` of a hook (R211). -/
structure HookCall where
  port : Port
  packet : SetupPacket
  k : Byte
  data : List Byte
  deriving DecidableEq, Repr

/-- A hook as a finite table: the result for the calls listed, and one for every other call (R9, R211; log 12). -/
structure Hook where
  results : List (HookCall × HookResult)
  otherwise : HookResult
  deriving DecidableEq, Repr

/-- `HOOKS` (R9): three optional functions. -/
structure Hooks where
  classHook : Option Hook
  vendorHook : Option Hook
  stringHook : Option Hook
  deriving DecidableEq, Repr

/-- One operation that the application issues: an operation of 42 or 45 on its port (R9); CTE_DISCONNECT, which is
"Called by the application" (44_control_engine.md R217); or the sequence of 70_reset_and_hazards.md R296, with which "a
port is reconnected after `CTE_DISCONNECT`" (log 13). -/
inductive AppCall where
  | op (o : PortOp)
  | cteDisconnect
  | reconnect
  deriving DecidableEq, Repr

/-- `APP` (R9, 43_dispatcher_queue.md R181): what it does when idle, and on each event handed to it (log 13). -/
structure App where
  idle : List (Port × AppCall)
  onEvent : List (Event × List AppCall)
  deriving DecidableEq, Repr

/-- The parameters of R6. -/
structure Params where
  nports : Nat
  evqCapacity : Nat
  nep : Nat
  ctrlFifoDepth : Nat
  inFifoDepth : Nat
  outFifoDepth : Nat
  ep0Mps : PacketSizes
  rxBufLen : Nat
  writeWaitBudget : Option Nat
  selfPowered : Bool
  tables : Tables
  hooks : Hooks
  app : App
  deriving DecidableEq, Repr

/-- The defaults of R6 (TABLES: none supplied, log 11). -/
def Params.default : Params where
  nports := 2
  evqCapacity := 32
  nep := 16
  ctrlFifoDepth := 16
  inFifoDepth := 512
  outFifoDepth := 512
  ep0Mps := ⟨64, 64, 8, 512⟩
  rxBufLen := 64
  writeWaitBudget := none
  selfPowered := false
  tables := ⟨[], none, [], [], []⟩
  hooks := ⟨none, none, none⟩
  app := ⟨[], []⟩

/-- What R6 asks of the parameters: CTRL_FIFO_DEPTH "must be at least 8"; an endpoint number has 4 bits, and endpoint 0,
which the engine serves, is one of the NEP; APP's ports are ports (R12; log 36). -/
structure Params.Legal (c : Params) : Prop where
  ctrlFifoDepth : 8 ≤ c.ctrlFifoDepth
  endpointZero : 1 ≤ c.nep
  endpointNumbers : c.nep ≤ Config.epNumbers
  appPorts : ∀ x ∈ c.app.idle, x.1 < c.nports

/-- `EP0_MPS(speed)`. -/
def mpsOf (c : Params) : Speed → Nat
  | .high => c.ep0Mps.high
  | .full => c.ep0Mps.full
  | .low => c.ep0Mps.low
  | .superSpeed => c.ep0Mps.superSpeed

/-- `TABLES.config(speed, i)`. -/
def configBlob (t : Tables) (sp : Speed) (i : Byte) : Option (List Byte) := t.config.lookup (sp, i)

/-- `TABLES.string(i)`. -/
def stringBlob (t : Tables) (i : Byte) : Option (List Byte) := t.string.lookup i

/-- `TABLES.config_valid(speed, v)`. -/
def configValid (t : Tables) (sp : Speed) (v : Byte) : Bool := t.configValid.contains (sp, v)

/-- The hook registered for a kind, if any. -/
def hookOf (h : Hooks) : HookKind → Option Hook
  | .classHook => h.classHook
  | .vendorHook => h.vendorHook
  | .stringHook => h.stringHook

/-- The result of a hook on a call (R211). -/
def hookResult (h : Hook) (c : HookCall) : HookResult := (h.results.lookup c).getD h.otherwise

/-- What the application does on an event (R181). -/
def appOnEvent (a : App) (ev : Event) : List AppCall := (a.onEvent.lookup ev).getD []

end Sys2Proof.Machine
end

