-- ==== Sys2Proof/Machine/Task.lean ====
section
/-! DEFINITION. The steps an agent still has to take (00_scope.md R15), as plain data: each Task is one atomic step, or
the selection of the steps that follow (a case on the main context's own state, log 19). -/

namespace Sys2Proof.Machine

/-- The control-pipe state register's six names (10_state.md R22). -/
inductive PipeState where
  | idle | setupReceived | dataIn | dataOut | statusIn | statusOut
  deriving DecidableEq, Repr

/-- The Logged conditions whose counter is a port's (60_exceptions.md R262) and which are raised as a step of their own. -/
inductive PortLogged where
  | setupDropped | staleFifoReset | unexpected | waitExpired
  deriving DecidableEq, Repr

/-- One assignment to a field of `SW[p]` (00_scope.md R15: one atomic step). -/
inductive SwWrite where
  | cp (c : PipeState)
  | address (a : DevAddr)
  | speed (sp : Speed)
  | pendingTxAck (b : Bool)
  | deferredAddress (a : Option DevAddr)
  | configValue (v : Byte)
  | remoteWakeup (b : Bool)
  | rxBuf (bytes : List Byte)
  | rxTotal (n : Nat)
  deriving DecidableEq, Repr

/-- Where READ returns to: its caller outside (45_endpoint_io.md R240), a hook or APP that takes no notice, or the place
in 44_control_engine.md R192 or R213 that called it. -/
inductive ReadRet where
  | toCaller | discard | setup | statusOut | dataOut | unexpected
  deriving DecidableEq, Repr

/-- Where WRITE returns to: its caller outside (45_endpoint_io.md R242), a caller that takes no notice, or
SEND_RESPONSE (44_control_engine.md R197). -/
inductive WriteRet where
  | toCaller | discard | response
  deriving DecidableEq, Repr

/-- What the dispatcher's endpoint-number read is for (43_dispatcher_queue.md R173 to R175). -/
inductive EpnoUse where
  | receiveControl | receivePacket | sendComplete
  deriving DecidableEq, Repr

/-- A step still to be taken. -/
inductive Task where
  /-- One assignment to `SW[p]`. -/
  | sw (p : Port) (w : SwWrite)
  /-- One operation of the register layer, or the first step of a compound one. -/
  | call (p : Port) (o : PortOp)
  /-- `raise Logged(kind)`: one counter (60_exceptions.md R262). -/
  | log (p : Port) (k : PortLogged)
  /-- `raise Logged(UnknownInterrupt)` (43_dispatcher_queue.md R182). -/
  | logUnknownInterrupt
  /-- `raise Logged(ErrorEvent)` (43_dispatcher_queue.md R182). -/
  | logErrorEvent
  /-- The last step of DISCONNECT (42_register_ops.md R136). -/
  | dropLine (p : Port)
  /-- `c = CONNECT(p)` of the boot sequence; the assignment of the speed follows (70_reset_and_hazards.md R296). -/
  | bootConnect (p : Port)
  /-- READ's query `has(F)(p)` (R240). -/
  | readQuery (p : Port) (f : ReadFifo) (len : Nat) (buf : List Byte) (ovf : Nat) (r : ReadRet)
  /-- READ's pop. -/
  | readPop (p : Port) (f : ReadFifo) (len : Nat) (buf : List Byte) (ovf : Nat) (r : ReadRet)
  /-- READ's `raise Logged(ReadOverflow)` if `ovf > 0`, and its return (log 20). -/
  | readReturn (p : Port) (buf : List Byte) (ovf : Nat) (r : ReadRet)
  /-- WRITE's stale check (R242). -/
  | writeStart (p : Port) (ep : EpNo) (bytes : List Byte) (size : Nat) (r : WriteRet)
  /-- WRITE's push of byte number `i`; `rest` are the bytes behind it. -/
  | writePush (p : Port) (ep : EpNo) (size : Nat) (b : Byte) (rest : List Byte) (i : Nat) (r : WriteRet)
  /-- WRITE's commit at a packet boundary, before byte number `i`. -/
  | writeBoundary (p : Port) (ep : EpNo) (size : Nat) (rest : List Byte) (i : Nat) (r : WriteRet)
  /-- One poll of WRITE's busy-wait (R245). -/
  | writePoll (p : Port) (ep : EpNo) (size : Nat) (rest : List Byte) (i : Nat) (polls : Nat) (r : WriteRet)
  /-- WRITE's final commit, and `return ok`. -/
  | writeFinal (p : Port) (ep : EpNo) (r : WriteRet)
  /-- WRITE's `return expired`. -/
  | writeExpired (p : Port) (r : WriteRet)
  /-- `atomic { for i in 0..7: x[i] <- buf[i] }` (44_control_engine.md R192). -/
  | latch (p : Port) (x : SetupBytes)
  /-- CTE_DISPATCH (R193). -/
  | dispatch (p : Port)
  /-- A request handler (R198 to R210). -/
  | request (p : Port) (h : Handler)
  /-- GetStatus(Endpoint)'s IS_STALLED, and the reply (R198). -/
  | statusOfEndpoint (p : Port) (d : Dir) (e : EpNo)
  /-- ACK_STATUS_STAGE (R195). -/
  | ackStatusStage (p : Port)
  /-- STALL_CONTROL_REQUEST (R196). -/
  | stallControlRequest (p : Port)
  /-- SEND_RESPONSE (R197). -/
  | sendResponse (p : Port) (bytes : List Byte)
  /-- DATA_OUT_BEGIN (R212). -/
  | dataOutBegin (p : Port)
  /-- RUN_HOOK (R211). -/
  | runHook (p : Port) (h : HookKind) (k : Byte) (data : List Byte)
  /-- CTE_RECEIVE_PACKET's case on cp (R213). -/
  | receivePacket (p : Port)
  /-- R213's test that ends the data stage; `n` is `n + ovf`. -/
  | receiveDecide (p : Port) (n : Nat)
  /-- CTE_SEND_COMPLETE's read of the flag, and its case (R214). -/
  | sendComplete (p : Port)
  /-- `SW[p].speed <- CTL_SPEED(p)`: the read; the assignment follows (R191). -/
  | readSpeed (p : Port)
  /-- CTE_BUS_RESET (R191). -/
  | cteBusReset (p : Port)
  /-- CTE_RECEIVE_CONTROL (R192). -/
  | cteReceiveControl (p : Port)
  /-- CTE_DISCONNECT (R217). -/
  | cteDisconnect (p : Port)
  /-- EVQ_POP of MAIN_STEP, and its case on the event (43_dispatcher_queue.md R181). -/
  | mainPop
  /-- The queries of the priority chain still to be made (43_dispatcher_queue.md R170, R171). -/
  | irqScan (chain : List (Port × Source)) (extra : Nat)
  /-- The handler of a source (R172 to R175). -/
  | irqHandler (p : Port) (src : Source)
  /-- A read of an endpoint number in the dispatcher. -/
  | irqEpno (p : Port) (u : EpnoUse)
  /-- IRQ_UNKNOWN's sum over the pending bits (R176). -/
  | irqUnknown (extra : Nat)
  /-- EVQ_PUSH (R178). -/
  | evqPush (ev : Event)
  deriving DecidableEq, Repr

end Sys2Proof.Machine
end

