-- ==== Sys2Proof/Machine/Boot.lean ====
section
/-! DEFINITION. The boot sequence of 70_reset_and_hazards.md R296, the first work of the main context after power-on
(R291; log 21). -/

namespace Sys2Proof.Machine

/-- The sequence of R296 for one port: at power-on, and "when a port is reconnected after `CTE_DISCONNECT`". -/
def bootPort (p : Port) : List Task :=
  [.call p (.resetFifo .epc), .call p (.resetFifo .inp), .call p (.resetFifo .out),
   .call p (.setAddress 0),
   .call p (.clearPending .ctl), .call p (.clearPending .epc), .call p (.clearPending .out), .call p (.clearPending .inp),
   .call p (.enableInterrupt .ctl), .call p (.enableInterrupt .epc), .call p (.enableInterrupt .out),
   .call p (.enableInterrupt .inp),
   .bootConnect p]

/-- "Then for each port p, in this order" (R296). -/
def bootTasks (c : Params) : List Task := (List.range c.nports).flatMap bootPort

end Sys2Proof.Machine
end

