-- ==== Sys2Proof/Machine/Operands.lean ====
section
/-! DEFINITION. The pure decode functions of 41_setup_decode.md (stateless, total), the assembly of 16-bit fields, the
accessors of a SETUP packet, and the selection of a request row and handler (30_encoding.md R99). -/

namespace Sys2Proof.Machine

/-- `lo8(w) = w[7:0]` (00_scope.md R10). -/
def lo8 (w : Half) : Byte := w.extractLsb' 0 8

/-- `hi8(w) = w[15:8]` (00_scope.md R10). -/
def hi8 (w : Half) : Byte := w.extractLsb' 8 8

/-- `le16(b0, b1) = 256*b1 + b0`, first byte least significant (00_scope.md R10, 20_memory.md R54). -/
def le16 (b0 b1 : Byte) : Half := b1 ++ b0

/-- `DEC_RECIPIENT` (R110). -/
def decRecipient (rt : Byte) : Recipient :=
  let n := rt.extractLsb' 0 5
  if n = 0 then .device
  else if n = 1 then .interface
  else if n = 2 then .endpoint
  else if n = 3 then .other
  else .reserved n

/-- `DEC_TYPE` (R111). -/
def decType (rt : Byte) : RequestType :=
  let t := rt.extractLsb' 5 2
  if t = 0 then .standard
  else if t = 1 then .classType
  else if t = 2 then .vendor
  else .reserved

/-- `DEC_DIRECTION` (R112). -/
def decDirection (rt : Byte) : Direction :=
  if rt.getLsbD 7 then .deviceToHost else .hostToDevice

/-- `DEC_REQUEST` (R113). -/
def decRequest (rq : Byte) : Request :=
  match rq.toNat with
  | 0 => .getStatus
  | 1 => .clearFeature
  | 2 => .reserved rq
  | 3 => .setFeature
  | 4 => .reserved rq
  | 5 => .setAddress
  | 6 => .getDescriptor
  | 7 => .setDescriptor
  | 8 => .getConfiguration
  | 9 => .setConfiguration
  | 10 => .getInterface
  | 11 => .setInterface
  | 12 => .synchronizeFrame
  | _ => .classOrVendor rq

/-- `DEC_SETUP` (R114). -/
def decSetup (b : SetupBytes) : SetupPacket where
  requestType := b.x0
  request := b.x1
  value := le16 b.x2 b.x3
  index := le16 b.x4 b.x5
  length := le16 b.x6 b.x7

/-- `ENC_SETUP` (R115). -/
def encSetup (s : SetupPacket) : SetupBytes where
  x0 := s.requestType
  x1 := s.request
  x2 := lo8 s.value
  x3 := hi8 s.value
  x4 := lo8 s.index
  x5 := hi8 s.index
  x6 := lo8 s.length
  x7 := hi8 s.length

/-- `recipient(s)` (R114). -/
def recipientOf (s : SetupPacket) : Recipient := decRecipient s.requestType

/-- `type(s)` (R114). -/
def typeOf (s : SetupPacket) : RequestType := decType s.requestType

/-- `direction(s)` (R114). -/
def directionOf (s : SetupPacket) : Direction := decDirection s.requestType

/-- `request(s)` (R114). -/
def requestOf (s : SetupPacket) : Request := decRequest s.request

/-- `DESC_SELECT` (R117): descriptor type, descriptor index, language identifier. -/
def descSelect (s : SetupPacket) : Byte × Byte × Half := (hi8 s.value, lo8 s.value, s.index)

/-- `FEATURE_SELECT` (R118): the whole 16-bit value is compared. -/
def featureSelect (s : SetupPacket) : Feature :=
  if s.value = 0 then .endpointHalt
  else if s.value = 1 then .deviceRemoteWakeup
  else .unknown s.value

/-- `EP_ADDR_SPLIT` (R119): bits 6:4 are ignored. -/
def epAddrSplit (ea : Byte) : Dir × EpNo :=
  (if ea.getLsbD 7 then .inp else .out, ea.extractLsb' 0 4)

/-- `DEV_ADDR` (R120): no masking of values above 127. -/
def devAddr (s : SetupPacket) : Option DevAddr :=
  if s.value.toNat ≤ 127 then some (s.value.extractLsb' 0 7) else none

/-- The numeric speed code (00_scope.md R8). -/
def speedCode : Speed → Nat
  | .high => 0
  | .full => 1
  | .low => 2
  | .superSpeed => 3

/-- The speed with a code (70_reset_and_hazards.md R296: "the speed with code c"). -/
def speedOfCode : Nat → Speed
  | 0 => .high
  | 1 => .full
  | 2 => .low
  | _ => .superSpeed

/-- The handler that a per-port pending slice selects: its lowest set bit (30_encoding.md R96, 43_dispatcher_queue.md
R171). -/
def pendHandler (v : BitVec 4) : IrqHandler :=
  if v.getLsbD 0 then .busReset
  else if v.getLsbD 1 then .receiveControl
  else if v.getLsbD 2 then .receivePacket
  else if v.getLsbD 3 then .sendComplete
  else .unknown

/-- The tag of an event (30_encoding.md R92). -/
def eventTag : Event → EventTag
  | .busReset _ => .busReset
  | .receiveControl _ _ => .receiveControl
  | .receivePacket _ _ => .receivePacket
  | .sendComplete _ _ => .sendComplete
  | .unknownInterrupt _ => .unknownInterrupt
  | .error => .error

/-- The number of an event tag (30_encoding.md R92; the spec's own). -/
def eventTagCode : EventTag → Nat
  | .busReset => 0
  | .receiveControl => 1
  | .receivePacket => 2
  | .sendComplete => 3
  | .unknownInterrupt => 4
  | .error => 5

/-- Handler selection: the type first, then the request code (R99, R193). -/
def selectHandler (s : SetupPacket) : Handler :=
  match typeOf s with
  | .standard =>
    match requestOf s with
    | .getStatus => .getStatus
    | .clearFeature => .clearFeature
    | .setFeature => .setFeature
    | .setAddress => .setAddress
    | .getDescriptor => .getDescriptor
    | .setDescriptor => .setDescriptor
    | .getConfiguration => .getConfiguration
    | .setConfiguration => .setConfiguration
    | .getInterface => .getInterface
    | .setInterface => .setInterface
    | .synchronizeFrame => .synchFrame
    | .reserved _ => .reserved
    | .classOrVendor _ => .classOrVendor
  | .classType => .classOrVendor
  | .vendor => .classOrVendor
  | .reserved => .reserved

/-- The row of a Standard packet whose code is 13 to 255: the six aligned blocks of R99. -/
def classOrVendorRow (code : Byte) : RequestRow :=
  if code.toNat < 14 then .classOrVendorStd13
  else if code.toNat < 16 then .classOrVendorStd14To15
  else if code.toNat < 32 then .classOrVendorStd16To31
  else if code.toNat < 64 then .classOrVendorStd32To63
  else if code.toNat < 128 then .classOrVendorStd64To127
  else .classOrVendorStd128To255

/-- The table row that a packet is read as: the sub-case row where one fits, else the handler's row (R99; log 7). -/
def requestRow (s : SetupPacket) : RequestRow :=
  match typeOf s with
  | .standard =>
    match requestOf s with
    | .getStatus => .getStatus
    | .clearFeature =>
      match featureSelect s with
      | .endpointHalt => .clearFeatureEndpointHalt
      | .deviceRemoteWakeup => .clearFeatureDeviceRemoteWakeup
      | .unknown _ => .clearFeature
    | .setFeature =>
      match featureSelect s with
      | .endpointHalt => .setFeatureEndpointHalt
      | .deviceRemoteWakeup => .setFeatureDeviceRemoteWakeup
      | .unknown _ => .setFeature
    | .setAddress => .setAddress
    | .getDescriptor =>
      match (hi8 s.value).toNat with
      | 1 => .getDescriptorDevice
      | 2 => .getDescriptorConfiguration
      | 3 => .getDescriptorString
      | 6 => .getDescriptorDeviceQualifier
      | _ => .getDescriptor
    | .setDescriptor => .setDescriptor
    | .getConfiguration => .getConfiguration
    | .setConfiguration => .setConfiguration
    | .getInterface => .getInterface
    | .setInterface => .setInterface
    | .synchronizeFrame => .synchFrame
    | .reserved code => if code = 2 then .reservedStd2 else .reservedStd4
    | .classOrVendor code => classOrVendorRow code
  | .classType => .classOrVendorClass
  | .vendor => .classOrVendorVendor
  | .reserved => .reservedType3

/-- The handler a table row names (R99; spec/opcode_table.json). -/
def rowHandler : RequestRow → Handler
  | .getStatus => .getStatus
  | .clearFeature => .clearFeature
  | .clearFeatureEndpointHalt => .clearFeature
  | .clearFeatureDeviceRemoteWakeup => .clearFeature
  | .setFeature => .setFeature
  | .setFeatureEndpointHalt => .setFeature
  | .setFeatureDeviceRemoteWakeup => .setFeature
  | .setAddress => .setAddress
  | .getDescriptor => .getDescriptor
  | .getDescriptorDevice => .getDescriptor
  | .getDescriptorConfiguration => .getDescriptor
  | .getDescriptorString => .getDescriptor
  | .getDescriptorDeviceQualifier => .getDescriptor
  | .setDescriptor => .setDescriptor
  | .getConfiguration => .getConfiguration
  | .setConfiguration => .setConfiguration
  | .getInterface => .getInterface
  | .setInterface => .setInterface
  | .synchFrame => .synchFrame
  | .reservedStd2 => .reserved
  | .reservedStd4 => .reserved
  | .reservedType3 => .reserved
  | .classOrVendorStd13 => .classOrVendor
  | .classOrVendorStd14To15 => .classOrVendor
  | .classOrVendorStd16To31 => .classOrVendor
  | .classOrVendorStd32To63 => .classOrVendor
  | .classOrVendorStd64To127 => .classOrVendor
  | .classOrVendorStd128To255 => .classOrVendor
  | .classOrVendorClass => .classOrVendor
  | .classOrVendorVendor => .classOrVendor

/-- The hook of a request type; a Standard or Reserved packet has none (R210). -/
def hookOfType : RequestType → Option HookKind
  | .classType => some .classHook
  | .vendor => some .vendorHook
  | .standard => none
  | .reserved => none

end Sys2Proof.Machine
end

