-- ==== Sys2Proof/WellFormed.lean ====
section
/-! DEFINITION. Which terms of Instr have an encoding: port numbers, naturals and byte counts that fit their operand fields
(log 3), a packet size of at least 1 (45_endpoint_io.md R242), and words that lie in the row their constructor stands
for. -/

namespace Sys2Proof

/-- A port number that fits the model's operand byte (logs 3, 27). -/
def fitsPort (p : Port) : Bool := decide (p < 256)

/-- A natural that fits the model's 32-bit operand field (log 3). -/
def fits32 (n : Nat) : Bool := decide (n < 4294967296)

/-- A byte sequence whose length fits the model's 16-bit count (log 3). -/
def fitsCount (bytes : List Byte) : Bool := decide (bytes.length < 65536)

/-- A packet size `P >= 1` (R242) that fits the model's 16-bit operand field, which holds P - 1 (log 3). -/
def fitsSize (size : Nat) : Bool := decide (1 ≤ size ∧ size ≤ 65536)

/-- The bits of `w` under `mask` are `pattern`: a row of the table selects the word (30_encoding.md R87). -/
def inRow {n : Nat} (w mask pattern : BitVec n) : Bool := decide (w &&& mask = pattern)

/-- An event whose port, or raw bitmap, fits the model's operand field (log 3). -/
def fitsEvent : Event → Bool
  | .unknownInterrupt raw => fits32 raw
  | .busReset p => fitsPort p
  | .receiveControl p _ => fitsPort p
  | .receivePacket p _ => fitsPort p
  | .sendComplete p _ => fitsPort p
  | .error => true

/-- The packet lies in the row (R99). -/
def inRequestRow (s : SetupPacket) (r : RequestRow) : Bool := decide (Machine.requestRow s = r)

/-- Well-formedness of an instruction. -/
def Instr.wellFormed : Instr → Bool
  | .decRecipient _ => true
  | .decType _ => true
  | .decDirection _ => true
  | .decRequest _ => true
  | .decSetup _ => true
  | .encSetup _ => true
  | .descSelect _ => true
  | .featureSelect _ => true
  | .epAddrSplit _ => true
  | .devAddr _ => true
  | .enableInterrupt p _ => fitsPort p
  | .disableInterrupt p _ => fitsPort p
  | .clearPending p _ => fitsPort p
  | .isPending p _ => fitsPort p
  | .connect p _ => fitsPort p
  | .disconnect p => fitsPort p
  | .ctlSpeed p => fitsPort p
  | .resetFifo p _ => fitsPort p
  | .setAddress p _ => fitsPort p
  | .stallIn p _ => fitsPort p
  | .stallOut p _ => fitsPort p
  | .unstallIn p _ => fitsPort p
  | .unstallOut p _ => fitsPort p
  | .clearHalt p _ => fitsPort p
  | .outHasData p => fitsPort p
  | .outPopByte p => fitsPort p
  | .ctrlHasData p => fitsPort p
  | .ctrlPopByte p => fitsPort p
  | .ctrlEpno p => fitsPort p
  | .outEpno p => fitsPort p
  | .outPrime p _ => fitsPort p
  | .inPushByte p _ => fitsPort p
  | .inCommit p _ => fitsPort p
  | .inIsIdle p => fitsPort p
  | .inHasData p => fitsPort p
  | .isStalled p _ _ => fitsPort p
  | .inEpno p => fitsPort p
  | .hostBusReset p _ => fitsPort p
  | .hostSetup p _ _ bytes => fitsPort p && fitsCount bytes
  | .hostOutPacket p _ _ bytes => fitsPort p && fitsCount bytes
  | .hostInTake p _ _ => fitsPort p
  | .hostSeesStall p _ _ _ => fitsPort p
  | .spuriousIrq extra => fits32 extra
  | .irqEntry => true
  | .irqBusReset p => fitsPort p
  | .irqReceiveControl p => fitsPort p
  | .irqReceivePacket p => fitsPort p
  | .irqSendComplete p => fitsPort p
  | .irqUnknown extra => fits32 extra
  | .evqPush ev => fitsEvent ev
  | .evqPop => true
  | .mainStep => true
  | .cteBusReset p => fitsPort p
  | .cteReceiveControl p => fitsPort p
  | .cteDispatch p => fitsPort p
  | .ackStatusStage p => fitsPort p
  | .stallControlRequest p => fitsPort p
  | .sendResponse p bytes => fitsPort p && fitsCount bytes
  | .dataOutBegin p => fitsPort p
  | .cteReceivePacket p => fitsPort p
  | .cteSendComplete p => fitsPort p
  | .cteDisconnect p => fitsPort p
  | .runHook p _ _ data => fitsPort p && fitsCount data
  | .read p _ len => fitsPort p && fits32 len
  | .write p _ bytes size => fitsPort p && fitsCount bytes && fitsSize size
  | .writeZlp p _ => fitsPort p
  | .readControl p => fitsPort p
  | .reqGetStatus p s => fitsPort p && inRequestRow s .getStatus
  | .reqClearFeature p s => fitsPort p && inRequestRow s .clearFeature
  | .reqReservedStd2 p s => fitsPort p && inRequestRow s .reservedStd2
  | .reqSetFeature p s => fitsPort p && inRequestRow s .setFeature
  | .reqReservedStd4 p s => fitsPort p && inRequestRow s .reservedStd4
  | .reqSetAddress p s => fitsPort p && inRequestRow s .setAddress
  | .reqGetDescriptor p s => fitsPort p && inRequestRow s .getDescriptor
  | .reqSetDescriptor p s => fitsPort p && inRequestRow s .setDescriptor
  | .reqGetConfiguration p s => fitsPort p && inRequestRow s .getConfiguration
  | .reqSetConfiguration p s => fitsPort p && inRequestRow s .setConfiguration
  | .reqGetInterface p s => fitsPort p && inRequestRow s .getInterface
  | .reqSetInterface p s => fitsPort p && inRequestRow s .setInterface
  | .reqSynchFrame p s => fitsPort p && inRequestRow s .synchFrame
  | .reqClassOrVendorStd13 p s => fitsPort p && inRequestRow s .classOrVendorStd13
  | .reqClassOrVendorStd14To15 p s => fitsPort p && inRequestRow s .classOrVendorStd14To15
  | .reqClassOrVendorStd16To31 p s => fitsPort p && inRequestRow s .classOrVendorStd16To31
  | .reqClassOrVendorStd32To63 p s => fitsPort p && inRequestRow s .classOrVendorStd32To63
  | .reqClassOrVendorStd64To127 p s => fitsPort p && inRequestRow s .classOrVendorStd64To127
  | .reqClassOrVendorStd128To255 p s => fitsPort p && inRequestRow s .classOrVendorStd128To255
  | .reqClassOrVendorClass p s => fitsPort p && inRequestRow s .classOrVendorClass
  | .reqClassOrVendorVendor p s => fitsPort p && inRequestRow s .classOrVendorVendor
  | .reqReservedType3 p s => fitsPort p && inRequestRow s .reservedType3
  | .reqGetDescriptorDevice p s => fitsPort p && inRequestRow s .getDescriptorDevice
  | .reqGetDescriptorConfiguration p s => fitsPort p && inRequestRow s .getDescriptorConfiguration
  | .reqGetDescriptorString p s => fitsPort p && inRequestRow s .getDescriptorString
  | .reqGetDescriptorDeviceQualifier p s => fitsPort p && inRequestRow s .getDescriptorDeviceQualifier
  | .reqClearFeatureEndpointHalt p s => fitsPort p && inRequestRow s .clearFeatureEndpointHalt
  | .reqClearFeatureDeviceRemoteWakeup p s => fitsPort p && inRequestRow s .clearFeatureDeviceRemoteWakeup
  | .reqSetFeatureEndpointHalt p s => fitsPort p && inRequestRow s .setFeatureEndpointHalt
  | .reqSetFeatureDeviceRemoteWakeup p s => fitsPort p && inRequestRow s .setFeatureDeviceRemoteWakeup
  | .recipientDevice rt => inRow rt 0x1F#8 0x00#8
  | .recipientInterface rt => inRow rt 0x1F#8 0x01#8
  | .recipientEndpoint rt => inRow rt 0x1F#8 0x02#8
  | .recipientOther rt => inRow rt 0x1F#8 0x03#8
  | .recipientReserved4To7 rt => inRow rt 0x1C#8 0x04#8
  | .recipientReserved8To15 rt => inRow rt 0x18#8 0x08#8
  | .recipientReserved16To31 rt => inRow rt 0x10#8 0x10#8
  | .typeStandard rt => inRow rt 0x60#8 0x00#8
  | .typeClass rt => inRow rt 0x60#8 0x20#8
  | .typeVendor rt => inRow rt 0x60#8 0x40#8
  | .typeReserved rt => inRow rt 0x60#8 0x60#8
  | .directionHostToDevice rt => inRow rt 0x80#8 0x00#8
  | .directionDeviceToHost rt => inRow rt 0x80#8 0x80#8
  | .requestGetStatus => true
  | .requestClearFeature => true
  | .requestReserved2 => true
  | .requestSetFeature => true
  | .requestReserved4 => true
  | .requestSetAddress => true
  | .requestGetDescriptor => true
  | .requestSetDescriptor => true
  | .requestGetConfiguration => true
  | .requestSetConfiguration => true
  | .requestGetInterface => true
  | .requestSetInterface => true
  | .requestSynchronizeFrame => true
  | .requestClassOrVendor13 => true
  | .requestClassOrVendor14To15 rq => inRow rq 0xFE#8 0x0E#8
  | .requestClassOrVendor16To31 rq => inRow rq 0xF0#8 0x10#8
  | .requestClassOrVendor32To63 rq => inRow rq 0xE0#8 0x20#8
  | .requestClassOrVendor64To127 rq => inRow rq 0xC0#8 0x40#8
  | .requestClassOrVendor128To255 rq => inRow rq 0x80#8 0x80#8
  | .featureEndpointHalt => true
  | .featureDeviceRemoteWakeup => true
  | .epaddrOut ea => inRow ea 0x80#8 0x00#8
  | .epaddrIn ea => inRow ea 0x80#8 0x80#8
  | .devAddrValid v => inRow v 0xFF80#16 0x0000#16
  | .pend4BusReset v => inRow v 0x1#4 0x1#4
  | .pend4ReceiveControl v => inRow v 0x3#4 0x2#4
  | .pend4ReceivePacket v => inRow v 0x7#4 0x4#4
  | .pend4SendComplete v => inRow v 0xF#4 0x8#4
  | .pend4None v => inRow v 0xF#4 0x0#4
  | .eventBusReset => true
  | .eventReceiveControl => true
  | .eventReceivePacket => true
  | .eventSendComplete => true
  | .eventUnknownInterrupt => true
  | .eventError => true
  | .speedHigh => true
  | .speedFull => true
  | .speedLow => true
  | .speedSuperspeed => true

end Sys2Proof
end

