-- ==== Sys2Proof/Decode.lean ====
section
/-! DEFINITION. Decoding: total on any bytes, rejecting by name, and the encoder written from the same tables.
An OPIDX word is the operation index of 30_encoding.md R96 with its operand bytes behind it (log 3). A SETUP64 word is the
eight bytes of the packet (R87) with the port behind them (log 6). A word of the other formats is the constant alone. -/

namespace Sys2Proof

/-- Why a word is no instruction. -/
inductive DecodeError where
  /-- The byte is no operation index of R96. -/
  | unknownOperation (idx : Byte)
  /-- The operand bytes behind the index are too few or out of range. -/
  | badOperands
  /-- The word is too short for its format, or lies in no row of it (a feature selector above 1, an address above 127,
  an event tag above 5). -/
  | noRow (v : View)
  deriving DecidableEq, Repr

/-- Reads one operand from the front of the bytes. -/
abbrev Get (α : Type) := List Byte → Option (α × List Byte)

/-- What decoding answers: the instruction and the bytes behind it. -/
abbrev Decoded := Except DecodeError (Instr × List Byte)

/-! ## Operand fields -/

def getByte : Get Byte
  | b :: r => some (b, r)
  | [] => none

def putByte (b : Byte) : List Byte := [b]

/-- A port number: a byte (log 3). -/
def getPort : Get Port
  | b :: r => some (b.toNat, r)
  | [] => none

def putPort (p : Port) : List Byte := [BitVec.ofNat 8 p]

/-- A source is a byte, its code the place of its bit in the pending bitmap (30_encoding.md R94; log 3). -/
def getSource : Get Source
  | b :: r =>
    match b.toNat with
    | 0 => some (.ctl, r)
    | 1 => some (.epc, r)
    | 2 => some (.out, r)
    | 3 => some (.inp, r)
    | _ => none
  | [] => none

def putSource : Source → List Byte
  | .ctl => [0#8]
  | .epc => [1#8]
  | .out => [2#8]
  | .inp => [3#8]

/-- The code of a FIFO group is the model's choice: 0 EPC, 1 IN, 2 OUT (log 3). -/
def getFifoGroup : Get FifoGroup
  | b :: r =>
    match b.toNat with
    | 0 => some (.epc, r)
    | 1 => some (.inp, r)
    | 2 => some (.out, r)
    | _ => none
  | [] => none

def putFifoGroup : FifoGroup → List Byte
  | .epc => [0#8]
  | .inp => [1#8]
  | .out => [2#8]

/-- The code of the FIFO that READ drains is the model's choice: 0 OUT, 1 CTRL (log 3). -/
def getReadFifo : Get ReadFifo
  | b :: r =>
    match b.toNat with
    | 0 => some (.out, r)
    | 1 => some (.ctrl, r)
    | _ => none
  | [] => none

def putReadFifo : ReadFifo → List Byte
  | .out => [0#8]
  | .ctrl => [1#8]

/-- A direction is a byte, its code the top bit of an endpoint address (30_encoding.md R90; log 3). -/
def getDir : Get Dir
  | b :: r =>
    match b.toNat with
    | 0 => some (.out, r)
    | 1 => some (.inp, r)
    | _ => none
  | [] => none

def putDir : Dir → List Byte
  | .out => [0#8]
  | .inp => [1#8]

/-- A speed is a byte, its code that of 00_scope.md R8 (log 3). -/
def getSpeed : Get Speed
  | b :: r =>
    match b.toNat with
    | 0 => some (.high, r)
    | 1 => some (.full, r)
    | 2 => some (.low, r)
    | 3 => some (.superSpeed, r)
    | _ => none
  | [] => none

def putSpeed : Speed → List Byte
  | .high => [0#8]
  | .full => [1#8]
  | .low => [2#8]
  | .superSpeed => [3#8]

/-- The code of a hook kind is the model's choice: 0 class, 1 vendor, 2 string (log 3). -/
def getHookKind : Get HookKind
  | b :: r =>
    match b.toNat with
    | 0 => some (.classHook, r)
    | 1 => some (.vendorHook, r)
    | 2 => some (.stringHook, r)
    | _ => none
  | [] => none

def putHookKind : HookKind → List Byte
  | .classHook => [0#8]
  | .vendorHook => [1#8]
  | .stringHook => [2#8]

def getEpNo : Get EpNo
  | b :: r => if b.toNat < 16 then some (b.setWidth 4, r) else none
  | [] => none

def putEpNo (e : EpNo) : List Byte := [e.setWidth 8]

def getDevAddr : Get DevAddr
  | b :: r => if b.toNat < 128 then some (b.setWidth 7, r) else none
  | [] => none

def putDevAddr (a : DevAddr) : List Byte := [a.setWidth 8]

/-- A 16-bit number, low byte first. -/
def getNat16 : Get Nat
  | b0 :: b1 :: r => some (b0.toNat + 256 * b1.toNat, r)
  | _ => none

def putNat16 (n : Nat) : List Byte := [BitVec.ofNat 8 n, BitVec.ofNat 8 (n / 256)]

/-- A 32-bit number, low byte first. -/
def getNat32 : Get Nat := fun bs =>
  match getNat16 bs with
  | some (lo, r) =>
    match getNat16 r with
    | some (hi, r') => some (lo + 65536 * hi, r')
    | none => none
  | none => none

def putNat32 (n : Nat) : List Byte := putNat16 n ++ putNat16 (n / 65536)

/-- A packet size `P >= 1`: the field holds P - 1. -/
def getSize : Get Nat := fun bs =>
  match getNat16 bs with
  | some (n, r) => some (n + 1, r)
  | none => none

def putSize (n : Nat) : List Byte := putNat16 (n - 1)

/-- A byte sequence: its count, then its bytes. -/
def getBytes : Get (List Byte) := fun bs =>
  match getNat16 bs with
  | some (n, r) => if n ≤ r.length then some (r.take n, r.drop n) else none
  | none => none

def putBytes (bytes : List Byte) : List Byte := putNat16 bytes.length ++ bytes

/-- The eight bytes of a packet in wire order (30_encoding.md R80). -/
def getSetupBytes : Get SetupBytes
  | b0 :: b1 :: b2 :: b3 :: b4 :: b5 :: b6 :: b7 :: r => some (⟨b0, b1, b2, b3, b4, b5, b6, b7⟩, r)
  | _ => none

def putSetupBytes (b : SetupBytes) : List Byte := [b.x0, b.x1, b.x2, b.x3, b.x4, b.x5, b.x6, b.x7]

def getPacket : Get SetupPacket := fun bs =>
  match getSetupBytes bs with
  | some (b, r) => some (Machine.decSetup b, r)
  | none => none

def putPacket (s : SetupPacket) : List Byte := putSetupBytes (Machine.encSetup s)

/-- A 16-bit field alone (`VALUE16`), low byte first (20_memory.md R54). -/
def getHalf : Get Half
  | b0 :: b1 :: r => some (Machine.le16 b0 b1, r)
  | _ => none

def putHalf (v : Half) : List Byte := [Machine.lo8 v, Machine.hi8 v]

def getPortEp : Get (Port × EpNo) := fun bs =>
  match getPort bs with
  | some (p, r) =>
    match getEpNo r with
    | some (e, r') => some ((p, e), r')
    | none => none
  | none => none

/-- An event: its tag (30_encoding.md R92), then its payload; the bytes are the model's choice (log 3). -/
def getEvent : Get Event
  | b :: r =>
    match b.toNat with
    | 0 => (getPort r).map fun (p, r) => (.busReset p, r)
    | 1 => (getPortEp r).map fun (x, r) => (.receiveControl x.1 x.2, r)
    | 2 => (getPortEp r).map fun (x, r) => (.receivePacket x.1 x.2, r)
    | 3 => (getPortEp r).map fun (x, r) => (.sendComplete x.1 x.2, r)
    | 4 => (getNat32 r).map fun (n, r) => (.unknownInterrupt n, r)
    | 5 => some (.error, r)
    | _ => none
  | [] => none

def putEvent : Event → List Byte
  | .busReset p => 0#8 :: putPort p
  | .receiveControl p e => 1#8 :: putPort p ++ putEpNo e
  | .receivePacket p e => 2#8 :: putPort p ++ putEpNo e
  | .sendComplete p e => 3#8 :: putPort p ++ putEpNo e
  | .unknownInterrupt raw => 4#8 :: putNat32 raw
  | .error => [5#8]

/-! ## Operations (OPIDX) -/

def args0 (i : Instr) (bs : List Byte) : Decoded := .ok (i, bs)

def args1 {α : Type} (ga : Get α) (mk : α → Instr) (bs : List Byte) : Decoded :=
  match ga bs with
  | some (a, r) => .ok (mk a, r)
  | none => .error .badOperands

def args2 {α β : Type} (ga : Get α) (gb : Get β) (mk : α → β → Instr) (bs : List Byte) : Decoded :=
  match ga bs with
  | some (a, r) => args1 gb (mk a) r
  | none => .error .badOperands

def args3 {α β γ : Type} (ga : Get α) (gb : Get β) (gc : Get γ) (mk : α → β → γ → Instr) (bs : List Byte) : Decoded :=
  match ga bs with
  | some (a, r) => args2 gb gc (mk a) r
  | none => .error .badOperands

def args4 {α β γ δ : Type} (ga : Get α) (gb : Get β) (gc : Get γ) (gd : Get δ) (mk : α → β → γ → δ → Instr)
    (bs : List Byte) : Decoded :=
  match ga bs with
  | some (a, r) => args3 gb gc gd (mk a) r
  | none => .error .badOperands

/-- The operation of an index (30_encoding.md R96; spec/opcode_table.json, rows of format OPIDX), given its operands. -/
def decodeOperation (idx : Byte) : List Byte → Decoded :=
  match idx.toNat with
  | 0x01 => args1 getByte .decRecipient
  | 0x02 => args1 getByte .decType
  | 0x03 => args1 getByte .decDirection
  | 0x04 => args1 getByte .decRequest
  | 0x05 => args1 getSetupBytes .decSetup
  | 0x06 => args1 getPacket .encSetup
  | 0x07 => args1 getPacket .descSelect
  | 0x08 => args1 getPacket .featureSelect
  | 0x09 => args1 getByte .epAddrSplit
  | 0x0A => args1 getPacket .devAddr
  | 0x10 => args2 getPort getSource .enableInterrupt
  | 0x11 => args2 getPort getSource .disableInterrupt
  | 0x12 => args2 getPort getSource .clearPending
  | 0x13 => args2 getPort getSource .isPending
  | 0x14 => args2 getPort getSpeed .connect
  | 0x15 => args1 getPort .disconnect
  | 0x16 => args1 getPort .ctlSpeed
  | 0x17 => args2 getPort getFifoGroup .resetFifo
  | 0x18 => args2 getPort getDevAddr .setAddress
  | 0x19 => args2 getPort getEpNo .stallIn
  | 0x1A => args2 getPort getEpNo .stallOut
  | 0x1B => args2 getPort getEpNo .unstallIn
  | 0x1C => args2 getPort getEpNo .unstallOut
  | 0x1D => args2 getPort getByte .clearHalt
  | 0x1E => args1 getPort .outHasData
  | 0x1F => args1 getPort .outPopByte
  | 0x20 => args1 getPort .ctrlHasData
  | 0x21 => args1 getPort .ctrlPopByte
  | 0x22 => args1 getPort .ctrlEpno
  | 0x23 => args1 getPort .outEpno
  | 0x24 => args2 getPort getEpNo .outPrime
  | 0x25 => args2 getPort getByte .inPushByte
  | 0x26 => args2 getPort getEpNo .inCommit
  | 0x27 => args1 getPort .inIsIdle
  | 0x28 => args1 getPort .inHasData
  | 0x29 => args3 getPort getDir getEpNo .isStalled
  | 0x2A => args1 getPort .inEpno
  | 0x30 => args2 getPort getSpeed .hostBusReset
  | 0x31 => args4 getPort getDevAddr getEpNo getBytes .hostSetup
  | 0x32 => args4 getPort getDevAddr getEpNo getBytes .hostOutPacket
  | 0x33 => args3 getPort getDevAddr getEpNo .hostInTake
  | 0x34 => args4 getPort getDevAddr getDir getEpNo .hostSeesStall
  | 0x35 => args1 getNat32 .spuriousIrq
  | 0x40 => args0 .irqEntry
  | 0x41 => args1 getPort .irqBusReset
  | 0x42 => args1 getPort .irqReceiveControl
  | 0x43 => args1 getPort .irqReceivePacket
  | 0x44 => args1 getPort .irqSendComplete
  | 0x45 => args1 getNat32 .irqUnknown
  | 0x46 => args1 getEvent .evqPush
  | 0x47 => args0 .evqPop
  | 0x48 => args0 .mainStep
  | 0x50 => args1 getPort .cteBusReset
  | 0x51 => args1 getPort .cteReceiveControl
  | 0x52 => args1 getPort .cteDispatch
  | 0x53 => args1 getPort .ackStatusStage
  | 0x54 => args1 getPort .stallControlRequest
  | 0x55 => args2 getPort getBytes .sendResponse
  | 0x56 => args1 getPort .dataOutBegin
  | 0x57 => args1 getPort .cteReceivePacket
  | 0x58 => args1 getPort .cteSendComplete
  | 0x59 => args1 getPort .cteDisconnect
  | 0x5A => args4 getPort getHookKind getByte getBytes .runHook
  | 0x60 => args3 getPort getReadFifo getNat32 .read
  | 0x61 => args4 getPort getEpNo getBytes getSize .write
  | 0x62 => args2 getPort getEpNo .writeZlp
  | 0x63 => args1 getPort .readControl
  | _ => fun _ => .error (.unknownOperation idx)

/-! ## Packets (SETUP64) and constants -/

/-- The constructor of a request row. -/
def requestInstr : RequestRow → Port → SetupPacket → Instr
  | .getStatus => .reqGetStatus
  | .clearFeature => .reqClearFeature
  | .reservedStd2 => .reqReservedStd2
  | .setFeature => .reqSetFeature
  | .reservedStd4 => .reqReservedStd4
  | .setAddress => .reqSetAddress
  | .getDescriptor => .reqGetDescriptor
  | .setDescriptor => .reqSetDescriptor
  | .getConfiguration => .reqGetConfiguration
  | .setConfiguration => .reqSetConfiguration
  | .getInterface => .reqGetInterface
  | .setInterface => .reqSetInterface
  | .synchFrame => .reqSynchFrame
  | .classOrVendorStd13 => .reqClassOrVendorStd13
  | .classOrVendorStd14To15 => .reqClassOrVendorStd14To15
  | .classOrVendorStd16To31 => .reqClassOrVendorStd16To31
  | .classOrVendorStd32To63 => .reqClassOrVendorStd32To63
  | .classOrVendorStd64To127 => .reqClassOrVendorStd64To127
  | .classOrVendorStd128To255 => .reqClassOrVendorStd128To255
  | .classOrVendorClass => .reqClassOrVendorClass
  | .classOrVendorVendor => .reqClassOrVendorVendor
  | .reservedType3 => .reqReservedType3
  | .getDescriptorDevice => .reqGetDescriptorDevice
  | .getDescriptorConfiguration => .reqGetDescriptorConfiguration
  | .getDescriptorString => .reqGetDescriptorString
  | .getDescriptorDeviceQualifier => .reqGetDescriptorDeviceQualifier
  | .clearFeatureEndpointHalt => .reqClearFeatureEndpointHalt
  | .clearFeatureDeviceRemoteWakeup => .reqClearFeatureDeviceRemoteWakeup
  | .setFeatureEndpointHalt => .reqSetFeatureEndpointHalt
  | .setFeatureDeviceRemoteWakeup => .reqSetFeatureDeviceRemoteWakeup

def decodeRequestRow (p : Port) (s : SetupPacket) : Instr := requestInstr (Machine.requestRow s) p s

/-- The mask of a SETUP64 row over the packet word `P` (30_encoding.md R87, R99; spec/opcode_table.json). -/
def rowMask : RequestRow → BitVec 64
  | .getStatus => 0x000000000000FF60#64
  | .clearFeature => 0x000000000000FF60#64
  | .reservedStd2 => 0x000000000000FF60#64
  | .setFeature => 0x000000000000FF60#64
  | .reservedStd4 => 0x000000000000FF60#64
  | .setAddress => 0x000000000000FF60#64
  | .getDescriptor => 0x000000000000FF60#64
  | .setDescriptor => 0x000000000000FF60#64
  | .getConfiguration => 0x000000000000FF60#64
  | .setConfiguration => 0x000000000000FF60#64
  | .getInterface => 0x000000000000FF60#64
  | .setInterface => 0x000000000000FF60#64
  | .synchFrame => 0x000000000000FF60#64
  | .classOrVendorStd13 => 0x000000000000FF60#64
  | .classOrVendorStd14To15 => 0x000000000000FE60#64
  | .classOrVendorStd16To31 => 0x000000000000F060#64
  | .classOrVendorStd32To63 => 0x000000000000E060#64
  | .classOrVendorStd64To127 => 0x000000000000C060#64
  | .classOrVendorStd128To255 => 0x0000000000008060#64
  | .classOrVendorClass => 0x0000000000000060#64
  | .classOrVendorVendor => 0x0000000000000060#64
  | .reservedType3 => 0x0000000000000060#64
  | .getDescriptorDevice => 0x00000000FF00FF60#64
  | .getDescriptorConfiguration => 0x00000000FF00FF60#64
  | .getDescriptorString => 0x00000000FF00FF60#64
  | .getDescriptorDeviceQualifier => 0x00000000FF00FF60#64
  | .clearFeatureEndpointHalt => 0x00000000FFFFFF60#64
  | .clearFeatureDeviceRemoteWakeup => 0x00000000FFFFFF60#64
  | .setFeatureEndpointHalt => 0x00000000FFFFFF60#64
  | .setFeatureDeviceRemoteWakeup => 0x00000000FFFFFF60#64

/-- The match value of a SETUP64 row (30_encoding.md R87, R99; spec/opcode_table.json). -/
def rowPattern : RequestRow → BitVec 64
  | .getStatus => 0x0000000000000000#64
  | .clearFeature => 0x0000000000000100#64
  | .reservedStd2 => 0x0000000000000200#64
  | .setFeature => 0x0000000000000300#64
  | .reservedStd4 => 0x0000000000000400#64
  | .setAddress => 0x0000000000000500#64
  | .getDescriptor => 0x0000000000000600#64
  | .setDescriptor => 0x0000000000000700#64
  | .getConfiguration => 0x0000000000000800#64
  | .setConfiguration => 0x0000000000000900#64
  | .getInterface => 0x0000000000000A00#64
  | .setInterface => 0x0000000000000B00#64
  | .synchFrame => 0x0000000000000C00#64
  | .classOrVendorStd13 => 0x0000000000000D00#64
  | .classOrVendorStd14To15 => 0x0000000000000E00#64
  | .classOrVendorStd16To31 => 0x0000000000001000#64
  | .classOrVendorStd32To63 => 0x0000000000002000#64
  | .classOrVendorStd64To127 => 0x0000000000004000#64
  | .classOrVendorStd128To255 => 0x0000000000008000#64
  | .classOrVendorClass => 0x0000000000000020#64
  | .classOrVendorVendor => 0x0000000000000040#64
  | .reservedType3 => 0x0000000000000060#64
  | .getDescriptorDevice => 0x0000000001000600#64
  | .getDescriptorConfiguration => 0x0000000002000600#64
  | .getDescriptorString => 0x0000000003000600#64
  | .getDescriptorDeviceQualifier => 0x0000000006000600#64
  | .clearFeatureEndpointHalt => 0x0000000000000100#64
  | .clearFeatureDeviceRemoteWakeup => 0x0000000000010100#64
  | .setFeatureEndpointHalt => 0x0000000000000300#64
  | .setFeatureDeviceRemoteWakeup => 0x0000000000010300#64

/-- The packet word `P` (30_encoding.md R87): byte i of the packet at bits 8i+7..8i. -/
def packetWord (s : SetupPacket) : BitVec 64 :=
  s.length ++ s.index ++ s.value ++ s.request ++ s.requestType

/-- The `RECIPIENT.*` row of a request_type byte (R82). -/
def decodeRecipientRow (rt : Byte) : Instr :=
  if inRow rt 0x1F#8 0x00#8 then .recipientDevice rt
  else if inRow rt 0x1F#8 0x01#8 then .recipientInterface rt
  else if inRow rt 0x1F#8 0x02#8 then .recipientEndpoint rt
  else if inRow rt 0x1F#8 0x03#8 then .recipientOther rt
  else if inRow rt 0x1C#8 0x04#8 then .recipientReserved4To7 rt
  else if inRow rt 0x18#8 0x08#8 then .recipientReserved8To15 rt
  else .recipientReserved16To31 rt

/-- The `TYPE.*` row of a request_type byte (R83). -/
def decodeTypeRow (rt : Byte) : Instr :=
  if inRow rt 0x60#8 0x00#8 then .typeStandard rt
  else if inRow rt 0x60#8 0x20#8 then .typeClass rt
  else if inRow rt 0x60#8 0x40#8 then .typeVendor rt
  else .typeReserved rt

/-- The `DIRECTION.*` row of a request_type byte (R84). -/
def decodeDirectionRow (rt : Byte) : Instr :=
  if inRow rt 0x80#8 0x00#8 then .directionHostToDevice rt else .directionDeviceToHost rt

/-- The `REQUEST.*` row of a request byte (R85). -/
def decodeReqRow (rq : Byte) : Instr :=
  match rq.toNat with
  | 0 => .requestGetStatus
  | 1 => .requestClearFeature
  | 2 => .requestReserved2
  | 3 => .requestSetFeature
  | 4 => .requestReserved4
  | 5 => .requestSetAddress
  | 6 => .requestGetDescriptor
  | 7 => .requestSetDescriptor
  | 8 => .requestGetConfiguration
  | 9 => .requestSetConfiguration
  | 10 => .requestGetInterface
  | 11 => .requestSetInterface
  | 12 => .requestSynchronizeFrame
  | 13 => .requestClassOrVendor13
  | _ =>
    if inRow rq 0xFE#8 0x0E#8 then .requestClassOrVendor14To15 rq
    else if inRow rq 0xF0#8 0x10#8 then .requestClassOrVendor16To31 rq
    else if inRow rq 0xE0#8 0x20#8 then .requestClassOrVendor32To63 rq
    else if inRow rq 0xC0#8 0x40#8 then .requestClassOrVendor64To127 rq
    else .requestClassOrVendor128To255 rq

/-- The `EPADDR.*` row of an endpoint address byte (R90). -/
def decodeEpaddrRow (ea : Byte) : Instr :=
  if inRow ea 0x80#8 0x00#8 then .epaddrOut ea else .epaddrIn ea

/-- The `PEND4.*` row of a pending slice (R96): the lowest set bit. -/
def decodePend4Row (v : BitVec 4) : Instr :=
  if inRow v 0x1#4 0x1#4 then .pend4BusReset v
  else if inRow v 0x3#4 0x2#4 then .pend4ReceiveControl v
  else if inRow v 0x7#4 0x4#4 then .pend4ReceivePacket v
  else if inRow v 0xF#4 0x8#4 then .pend4SendComplete v
  else .pend4None v

def decodeFeatureRow (v : Half) (r : List Byte) : Decoded :=
  match v.toNat with
  | 0 => .ok (.featureEndpointHalt, r)
  | 1 => .ok (.featureDeviceRemoteWakeup, r)
  | _ => .error (.noRow .value16Feature)

def decodeDevAddrRow (v : Half) (r : List Byte) : Decoded :=
  if inRow v 0xFF80#16 0x0000#16 then .ok (.devAddrValid v, r) else .error (.noRow .value16DevAddr)

def decodeEventRow (b : Byte) (r : List Byte) : Decoded :=
  match b.toNat with
  | 0 => .ok (.eventBusReset, r)
  | 1 => .ok (.eventReceiveControl, r)
  | 2 => .ok (.eventReceivePacket, r)
  | 3 => .ok (.eventSendComplete, r)
  | 4 => .ok (.eventUnknownInterrupt, r)
  | 5 => .ok (.eventError, r)
  | _ => .error (.noRow .event)

def decodeSpeedRow (b : Byte) (r : List Byte) : Decoded :=
  match b.toNat with
  | 0 => .ok (.speedHigh, r)
  | 1 => .ok (.speedFull, r)
  | 2 => .ok (.speedLow, r)
  | 3 => .ok (.speedSuperspeed, r)
  | _ => .error (.noRow .speed2)

/-! ## The decoder -/

/-- The instruction at the front of the bytes, read in a format, and the bytes behind it. Total on any bytes. -/
def decode (v : View) (bs : List Byte) : Decoded :=
  match v with
  | .opidx =>
    match bs with
    | idx :: r => decodeOperation idx r
    | [] => .error (.noRow .opidx)
  | .setup64 =>
    match getPacket bs with
    | some (s, r) =>
      match getPort r with
      | some (p, r') => .ok (decodeRequestRow p s, r')
      | none => .error .badOperands
    | none => .error (.noRow .setup64)
  | .rt8Recipient =>
    match bs with
    | b :: r => .ok (decodeRecipientRow b, r)
    | [] => .error (.noRow .rt8Recipient)
  | .rt8Type =>
    match bs with
    | b :: r => .ok (decodeTypeRow b, r)
    | [] => .error (.noRow .rt8Type)
  | .rt8Direction =>
    match bs with
    | b :: r => .ok (decodeDirectionRow b, r)
    | [] => .error (.noRow .rt8Direction)
  | .req8 =>
    match bs with
    | b :: r => .ok (decodeReqRow b, r)
    | [] => .error (.noRow .req8)
  | .value16Feature =>
    match getHalf bs with
    | some (x, r) => decodeFeatureRow x r
    | none => .error (.noRow .value16Feature)
  | .value16DevAddr =>
    match getHalf bs with
    | some (x, r) => decodeDevAddrRow x r
    | none => .error (.noRow .value16DevAddr)
  | .epaddr8 =>
    match bs with
    | b :: r => .ok (decodeEpaddrRow b, r)
    | [] => .error (.noRow .epaddr8)
  | .pend4 =>
    match bs with
    | b :: r => if b.toNat < 16 then .ok (decodePend4Row (b.setWidth 4), r) else .error (.noRow .pend4)
    | [] => .error (.noRow .pend4)
  | .event =>
    match bs with
    | b :: r => decodeEventRow b r
    | [] => .error (.noRow .event)
  | .speed2 =>
    match bs with
    | b :: r => decodeSpeedRow b r
    | [] => .error (.noRow .speed2)

/-! ## The encoder -/

/-- The format in which an instruction's word is read. -/
def viewOf : Instr → View
  | .decRecipient _ => .opidx
  | .decType _ => .opidx
  | .decDirection _ => .opidx
  | .decRequest _ => .opidx
  | .decSetup _ => .opidx
  | .encSetup _ => .opidx
  | .descSelect _ => .opidx
  | .featureSelect _ => .opidx
  | .epAddrSplit _ => .opidx
  | .devAddr _ => .opidx
  | .enableInterrupt _ _ => .opidx
  | .disableInterrupt _ _ => .opidx
  | .clearPending _ _ => .opidx
  | .isPending _ _ => .opidx
  | .connect _ _ => .opidx
  | .disconnect _ => .opidx
  | .ctlSpeed _ => .opidx
  | .resetFifo _ _ => .opidx
  | .setAddress _ _ => .opidx
  | .stallIn _ _ => .opidx
  | .stallOut _ _ => .opidx
  | .unstallIn _ _ => .opidx
  | .unstallOut _ _ => .opidx
  | .clearHalt _ _ => .opidx
  | .outHasData _ => .opidx
  | .outPopByte _ => .opidx
  | .ctrlHasData _ => .opidx
  | .ctrlPopByte _ => .opidx
  | .ctrlEpno _ => .opidx
  | .outEpno _ => .opidx
  | .outPrime _ _ => .opidx
  | .inPushByte _ _ => .opidx
  | .inCommit _ _ => .opidx
  | .inIsIdle _ => .opidx
  | .inHasData _ => .opidx
  | .isStalled _ _ _ => .opidx
  | .inEpno _ => .opidx
  | .hostBusReset _ _ => .opidx
  | .hostSetup _ _ _ _ => .opidx
  | .hostOutPacket _ _ _ _ => .opidx
  | .hostInTake _ _ _ => .opidx
  | .hostSeesStall _ _ _ _ => .opidx
  | .spuriousIrq _ => .opidx
  | .irqEntry => .opidx
  | .irqBusReset _ => .opidx
  | .irqReceiveControl _ => .opidx
  | .irqReceivePacket _ => .opidx
  | .irqSendComplete _ => .opidx
  | .irqUnknown _ => .opidx
  | .evqPush _ => .opidx
  | .evqPop => .opidx
  | .mainStep => .opidx
  | .cteBusReset _ => .opidx
  | .cteReceiveControl _ => .opidx
  | .cteDispatch _ => .opidx
  | .ackStatusStage _ => .opidx
  | .stallControlRequest _ => .opidx
  | .sendResponse _ _ => .opidx
  | .dataOutBegin _ => .opidx
  | .cteReceivePacket _ => .opidx
  | .cteSendComplete _ => .opidx
  | .cteDisconnect _ => .opidx
  | .runHook _ _ _ _ => .opidx
  | .read _ _ _ => .opidx
  | .write _ _ _ _ => .opidx
  | .writeZlp _ _ => .opidx
  | .readControl _ => .opidx
  | .reqGetStatus _ _ => .setup64
  | .reqClearFeature _ _ => .setup64
  | .reqReservedStd2 _ _ => .setup64
  | .reqSetFeature _ _ => .setup64
  | .reqReservedStd4 _ _ => .setup64
  | .reqSetAddress _ _ => .setup64
  | .reqGetDescriptor _ _ => .setup64
  | .reqSetDescriptor _ _ => .setup64
  | .reqGetConfiguration _ _ => .setup64
  | .reqSetConfiguration _ _ => .setup64
  | .reqGetInterface _ _ => .setup64
  | .reqSetInterface _ _ => .setup64
  | .reqSynchFrame _ _ => .setup64
  | .reqClassOrVendorStd13 _ _ => .setup64
  | .reqClassOrVendorStd14To15 _ _ => .setup64
  | .reqClassOrVendorStd16To31 _ _ => .setup64
  | .reqClassOrVendorStd32To63 _ _ => .setup64
  | .reqClassOrVendorStd64To127 _ _ => .setup64
  | .reqClassOrVendorStd128To255 _ _ => .setup64
  | .reqClassOrVendorClass _ _ => .setup64
  | .reqClassOrVendorVendor _ _ => .setup64
  | .reqReservedType3 _ _ => .setup64
  | .reqGetDescriptorDevice _ _ => .setup64
  | .reqGetDescriptorConfiguration _ _ => .setup64
  | .reqGetDescriptorString _ _ => .setup64
  | .reqGetDescriptorDeviceQualifier _ _ => .setup64
  | .reqClearFeatureEndpointHalt _ _ => .setup64
  | .reqClearFeatureDeviceRemoteWakeup _ _ => .setup64
  | .reqSetFeatureEndpointHalt _ _ => .setup64
  | .reqSetFeatureDeviceRemoteWakeup _ _ => .setup64
  | .recipientDevice _ => .rt8Recipient
  | .recipientInterface _ => .rt8Recipient
  | .recipientEndpoint _ => .rt8Recipient
  | .recipientOther _ => .rt8Recipient
  | .recipientReserved4To7 _ => .rt8Recipient
  | .recipientReserved8To15 _ => .rt8Recipient
  | .recipientReserved16To31 _ => .rt8Recipient
  | .typeStandard _ => .rt8Type
  | .typeClass _ => .rt8Type
  | .typeVendor _ => .rt8Type
  | .typeReserved _ => .rt8Type
  | .directionHostToDevice _ => .rt8Direction
  | .directionDeviceToHost _ => .rt8Direction
  | .requestGetStatus => .req8
  | .requestClearFeature => .req8
  | .requestReserved2 => .req8
  | .requestSetFeature => .req8
  | .requestReserved4 => .req8
  | .requestSetAddress => .req8
  | .requestGetDescriptor => .req8
  | .requestSetDescriptor => .req8
  | .requestGetConfiguration => .req8
  | .requestSetConfiguration => .req8
  | .requestGetInterface => .req8
  | .requestSetInterface => .req8
  | .requestSynchronizeFrame => .req8
  | .requestClassOrVendor13 => .req8
  | .requestClassOrVendor14To15 _ => .req8
  | .requestClassOrVendor16To31 _ => .req8
  | .requestClassOrVendor32To63 _ => .req8
  | .requestClassOrVendor64To127 _ => .req8
  | .requestClassOrVendor128To255 _ => .req8
  | .featureEndpointHalt => .value16Feature
  | .featureDeviceRemoteWakeup => .value16Feature
  | .epaddrOut _ => .epaddr8
  | .epaddrIn _ => .epaddr8
  | .devAddrValid _ => .value16DevAddr
  | .pend4BusReset _ => .pend4
  | .pend4ReceiveControl _ => .pend4
  | .pend4ReceivePacket _ => .pend4
  | .pend4SendComplete _ => .pend4
  | .pend4None _ => .pend4
  | .eventBusReset => .event
  | .eventReceiveControl => .event
  | .eventReceivePacket => .event
  | .eventSendComplete => .event
  | .eventUnknownInterrupt => .event
  | .eventError => .event
  | .speedHigh => .speed2
  | .speedFull => .speed2
  | .speedLow => .speed2
  | .speedSuperspeed => .speed2

/-- The word of an instruction, byte 0 first. -/
def encode : Instr → List Byte
  | .decRecipient rt => 0x01#8 :: putByte rt
  | .decType rt => 0x02#8 :: putByte rt
  | .decDirection rt => 0x03#8 :: putByte rt
  | .decRequest rq => 0x04#8 :: putByte rq
  | .decSetup b => 0x05#8 :: putSetupBytes b
  | .encSetup s => 0x06#8 :: putPacket s
  | .descSelect s => 0x07#8 :: putPacket s
  | .featureSelect s => 0x08#8 :: putPacket s
  | .epAddrSplit ea => 0x09#8 :: putByte ea
  | .devAddr s => 0x0A#8 :: putPacket s
  | .enableInterrupt p src => 0x10#8 :: putPort p ++ putSource src
  | .disableInterrupt p src => 0x11#8 :: putPort p ++ putSource src
  | .clearPending p src => 0x12#8 :: putPort p ++ putSource src
  | .isPending p src => 0x13#8 :: putPort p ++ putSource src
  | .connect p sp => 0x14#8 :: putPort p ++ putSpeed sp
  | .disconnect p => 0x15#8 :: putPort p
  | .ctlSpeed p => 0x16#8 :: putPort p
  | .resetFifo p g => 0x17#8 :: putPort p ++ putFifoGroup g
  | .setAddress p a => 0x18#8 :: putPort p ++ putDevAddr a
  | .stallIn p e => 0x19#8 :: putPort p ++ putEpNo e
  | .stallOut p e => 0x1A#8 :: putPort p ++ putEpNo e
  | .unstallIn p e => 0x1B#8 :: putPort p ++ putEpNo e
  | .unstallOut p e => 0x1C#8 :: putPort p ++ putEpNo e
  | .clearHalt p ea => 0x1D#8 :: putPort p ++ putByte ea
  | .outHasData p => 0x1E#8 :: putPort p
  | .outPopByte p => 0x1F#8 :: putPort p
  | .ctrlHasData p => 0x20#8 :: putPort p
  | .ctrlPopByte p => 0x21#8 :: putPort p
  | .ctrlEpno p => 0x22#8 :: putPort p
  | .outEpno p => 0x23#8 :: putPort p
  | .outPrime p e => 0x24#8 :: putPort p ++ putEpNo e
  | .inPushByte p b => 0x25#8 :: putPort p ++ putByte b
  | .inCommit p e => 0x26#8 :: putPort p ++ putEpNo e
  | .inIsIdle p => 0x27#8 :: putPort p
  | .inHasData p => 0x28#8 :: putPort p
  | .isStalled p d e => 0x29#8 :: putPort p ++ putDir d ++ putEpNo e
  | .inEpno p => 0x2A#8 :: putPort p
  | .hostBusReset p sp => 0x30#8 :: putPort p ++ putSpeed sp
  | .hostSetup p a e bytes => 0x31#8 :: putPort p ++ putDevAddr a ++ putEpNo e ++ putBytes bytes
  | .hostOutPacket p a e bytes => 0x32#8 :: putPort p ++ putDevAddr a ++ putEpNo e ++ putBytes bytes
  | .hostInTake p a e => 0x33#8 :: putPort p ++ putDevAddr a ++ putEpNo e
  | .hostSeesStall p a d e => 0x34#8 :: putPort p ++ putDevAddr a ++ putDir d ++ putEpNo e
  | .spuriousIrq extra => 0x35#8 :: putNat32 extra
  | .irqEntry => [0x40#8]
  | .irqBusReset p => 0x41#8 :: putPort p
  | .irqReceiveControl p => 0x42#8 :: putPort p
  | .irqReceivePacket p => 0x43#8 :: putPort p
  | .irqSendComplete p => 0x44#8 :: putPort p
  | .irqUnknown extra => 0x45#8 :: putNat32 extra
  | .evqPush ev => 0x46#8 :: putEvent ev
  | .evqPop => [0x47#8]
  | .mainStep => [0x48#8]
  | .cteBusReset p => 0x50#8 :: putPort p
  | .cteReceiveControl p => 0x51#8 :: putPort p
  | .cteDispatch p => 0x52#8 :: putPort p
  | .ackStatusStage p => 0x53#8 :: putPort p
  | .stallControlRequest p => 0x54#8 :: putPort p
  | .sendResponse p bytes => 0x55#8 :: putPort p ++ putBytes bytes
  | .dataOutBegin p => 0x56#8 :: putPort p
  | .cteReceivePacket p => 0x57#8 :: putPort p
  | .cteSendComplete p => 0x58#8 :: putPort p
  | .cteDisconnect p => 0x59#8 :: putPort p
  | .runHook p h k data => 0x5A#8 :: putPort p ++ putHookKind h ++ putByte k ++ putBytes data
  | .read p f len => 0x60#8 :: putPort p ++ putReadFifo f ++ putNat32 len
  | .write p ep bytes size => 0x61#8 :: putPort p ++ putEpNo ep ++ putBytes bytes ++ putSize size
  | .writeZlp p ep => 0x62#8 :: putPort p ++ putEpNo ep
  | .readControl p => 0x63#8 :: putPort p
  | .reqGetStatus p s => putPacket s ++ putPort p
  | .reqClearFeature p s => putPacket s ++ putPort p
  | .reqReservedStd2 p s => putPacket s ++ putPort p
  | .reqSetFeature p s => putPacket s ++ putPort p
  | .reqReservedStd4 p s => putPacket s ++ putPort p
  | .reqSetAddress p s => putPacket s ++ putPort p
  | .reqGetDescriptor p s => putPacket s ++ putPort p
  | .reqSetDescriptor p s => putPacket s ++ putPort p
  | .reqGetConfiguration p s => putPacket s ++ putPort p
  | .reqSetConfiguration p s => putPacket s ++ putPort p
  | .reqGetInterface p s => putPacket s ++ putPort p
  | .reqSetInterface p s => putPacket s ++ putPort p
  | .reqSynchFrame p s => putPacket s ++ putPort p
  | .reqClassOrVendorStd13 p s => putPacket s ++ putPort p
  | .reqClassOrVendorStd14To15 p s => putPacket s ++ putPort p
  | .reqClassOrVendorStd16To31 p s => putPacket s ++ putPort p
  | .reqClassOrVendorStd32To63 p s => putPacket s ++ putPort p
  | .reqClassOrVendorStd64To127 p s => putPacket s ++ putPort p
  | .reqClassOrVendorStd128To255 p s => putPacket s ++ putPort p
  | .reqClassOrVendorClass p s => putPacket s ++ putPort p
  | .reqClassOrVendorVendor p s => putPacket s ++ putPort p
  | .reqReservedType3 p s => putPacket s ++ putPort p
  | .reqGetDescriptorDevice p s => putPacket s ++ putPort p
  | .reqGetDescriptorConfiguration p s => putPacket s ++ putPort p
  | .reqGetDescriptorString p s => putPacket s ++ putPort p
  | .reqGetDescriptorDeviceQualifier p s => putPacket s ++ putPort p
  | .reqClearFeatureEndpointHalt p s => putPacket s ++ putPort p
  | .reqClearFeatureDeviceRemoteWakeup p s => putPacket s ++ putPort p
  | .reqSetFeatureEndpointHalt p s => putPacket s ++ putPort p
  | .reqSetFeatureDeviceRemoteWakeup p s => putPacket s ++ putPort p
  | .recipientDevice rt => [rt]
  | .recipientInterface rt => [rt]
  | .recipientEndpoint rt => [rt]
  | .recipientOther rt => [rt]
  | .recipientReserved4To7 rt => [rt]
  | .recipientReserved8To15 rt => [rt]
  | .recipientReserved16To31 rt => [rt]
  | .typeStandard rt => [rt]
  | .typeClass rt => [rt]
  | .typeVendor rt => [rt]
  | .typeReserved rt => [rt]
  | .directionHostToDevice rt => [rt]
  | .directionDeviceToHost rt => [rt]
  | .requestGetStatus => [0x00#8]
  | .requestClearFeature => [0x01#8]
  | .requestReserved2 => [0x02#8]
  | .requestSetFeature => [0x03#8]
  | .requestReserved4 => [0x04#8]
  | .requestSetAddress => [0x05#8]
  | .requestGetDescriptor => [0x06#8]
  | .requestSetDescriptor => [0x07#8]
  | .requestGetConfiguration => [0x08#8]
  | .requestSetConfiguration => [0x09#8]
  | .requestGetInterface => [0x0A#8]
  | .requestSetInterface => [0x0B#8]
  | .requestSynchronizeFrame => [0x0C#8]
  | .requestClassOrVendor13 => [0x0D#8]
  | .requestClassOrVendor14To15 rq => [rq]
  | .requestClassOrVendor16To31 rq => [rq]
  | .requestClassOrVendor32To63 rq => [rq]
  | .requestClassOrVendor64To127 rq => [rq]
  | .requestClassOrVendor128To255 rq => [rq]
  | .featureEndpointHalt => putHalf 0x0000#16
  | .featureDeviceRemoteWakeup => putHalf 0x0001#16
  | .epaddrOut ea => [ea]
  | .epaddrIn ea => [ea]
  | .devAddrValid v => putHalf v
  | .pend4BusReset v => [v.setWidth 8]
  | .pend4ReceiveControl v => [v.setWidth 8]
  | .pend4ReceivePacket v => [v.setWidth 8]
  | .pend4SendComplete v => [v.setWidth 8]
  | .pend4None v => [v.setWidth 8]
  | .eventBusReset => [0x00#8]
  | .eventReceiveControl => [0x01#8]
  | .eventReceivePacket => [0x02#8]
  | .eventSendComplete => [0x03#8]
  | .eventUnknownInterrupt => [0x04#8]
  | .eventError => [0x05#8]
  | .speedHigh => [0x00#8]
  | .speedFull => [0x01#8]
  | .speedLow => [0x02#8]
  | .speedSuperspeed => [0x03#8]

/-- The stimulus that carries an instruction. -/
def stimulusOf (i : Instr) : Stimulus := ⟨viewOf i, encode i⟩

/-! ## A word of the opcode table, numbered as the table numbers it -/

/-- The format a bare word of the table is read in (log 4): 64 bits are a packet; 16 bits a feature selector if one of
the two named, else a device address; 8 bits an operation index if R96 has it, else a request byte. -/
def tableView (nbits w : Nat) : View :=
  if 64 ≤ nbits then .setup64
  else if 16 ≤ nbits then (if w ≤ 1 then .value16Feature else .value16DevAddr)
  else if (1 ≤ w ∧ w ≤ 0x0A) ∨ (0x10 ≤ w ∧ w ≤ 0x2A) ∨ (0x30 ≤ w ∧ w ≤ 0x35) ∨ (0x40 ≤ w ∧ w ≤ 0x48)
      ∨ (0x50 ≤ w ∧ w ≤ 0x5A) ∨ (0x60 ≤ w ∧ w ≤ 0x63) then .opidx
  else .req8

/-- `n` bytes of a number, the least significant first. -/
def bytesOfNat : Nat → Nat → List Byte
  | 0, _ => []
  | n + 1, w => BitVec.ofNat 8 w :: bytesOfNat n (w / 256)

/-- The stimulus of a table word: its bits, the first byte least significant, and zeros behind them for the operands. -/
def tableStimulus (nbits w : Nat) : Stimulus :=
  ⟨tableView nbits w, bytesOfNat ((nbits + 7) / 8) w ++ List.replicate 16 0#8⟩

/-- The instruction the decoder reads from a table word (the host's interface). -/
def decodeTableWord (nbits w : Nat) : Option Instr :=
  match decode (tableStimulus nbits w).view (tableStimulus nbits w).bytes with
  | .ok (i, _) => some i
  | .error _ => none

end Sys2Proof
end

