-- ==== Sys2Proof/Machine/State.lean ====
section
/-! DEFINITION. The state of the machine, `(HW[0..NPORTS-1], SW[0..NPORTS-1], G)` of 10_state.md R20, as plain data, with
the parameters (R39) and the model's own fields beside it; its value at power-on; the reasons a step can stop. -/

namespace Sys2Proof.Machine

/-- One bit for each interrupt source (10_state.md R30). -/
structure SrcBits where
  ctl : Bool
  epc : Bool
  out : Bool
  inp : Bool
  deriving DecidableEq, Repr

/-- One bit for each endpoint number; the first NEP of them are the file of bits that 10_state.md R35 indexes by
`0..NEP-1`, the others are 0 (log 35). -/
abbrev EpBits := Vector Bool Config.epNumbers

/-- `HW[p]`: the four register groups and the per-endpoint bits (10_state.md R30 to R35). -/
structure HwPort where
  ie : SrcBits
  pend : SrcBits
  connect : Bool
  speed : Speed
  epcFifo : List Byte
  epcEpno : EpNo
  epcAddress : DevAddr
  inFifo : List Byte
  inEpno : EpNo
  inFlight : Bool
  outFifo : List Byte
  outEpno : EpNo
  outAddress : DevAddr
  stallIn : EpBits
  stallOut : EpBits
  pidIn : EpBits
  pidOut : EpBits
  outPrimed : EpBits
  deriving DecidableEq, Repr

/-- `SW[p]`: the SETUP latch, the control-pipe state register, the Port / Device State, the engine's bookkeeping and the
port's counters (10_state.md R21 to R26, R29). -/
structure SwPort where
  x : SetupBytes
  cp : PipeState
  address : DevAddr
  speed : Speed
  pendingTxAck : Bool
  deferredAddress : Option DevAddr
  configValue : Byte
  remoteWakeup : Bool
  rxBuf : List Byte
  rxTotal : Nat
  ctrSetupDropped : Nat
  ctrReadOverflow : Nat
  ctrWriteReset : Nat
  ctrWriteOverflow : Nat
  ctrUnexpected : Nat
  ctrWaitExpired : Nat
  deriving DecidableEq, Repr

/-- An entry of the observation trace (10_state.md R40). -/
inductive Obs where
  | setup (p : Port) (e : EpNo) (bytes : List Byte)
  | outPacket (p : Port) (e : EpNo) (bytes : List Byte)
  | inPacket (p : Port) (e : EpNo) (bytes : List Byte)
  | hostStall (p : Port) (d : Dir) (e : EpNo)
  | busReset (p : Port)
  | inCommit (p : Port) (e : EpNo) (n : Nat)
  | outPrime (p : Port) (e : EpNo)
  | addrWrite (p : Port) (a : DevAddr)
  | stallSet (p : Port) (d : Dir) (e : EpNo)
  | stallClr (p : Port) (d : Dir) (e : EpNo)
  | haltClr (p : Port) (d : Dir) (e : EpNo)
  | fifoReset (p : Port) (g : FifoGroup)
  | connect (p : Port)
  | disconnect (p : Port)
  deriving DecidableEq, Repr

/-- `G` (10_state.md R36, R37, R40, R29). -/
structure Global where
  evq : List Event
  fatal : Bool
  obs : List Obs
  ctrUnknownIrq : Nat
  ctrError : Nat
  deriving DecidableEq, Repr

/-- What an operation returns (the results of files 41, 42, 43 and 45; log 18). -/
inductive Ret where
  | nothing
  /-- The operation was not enabled and did nothing (logs 15, 16). -/
  | disabled
  | bool (b : Bool)
  | byte (b : Byte)
  | epno (e : EpNo)
  | speed (sp : Speed)
  | code (n : Nat)
  | recipient (r : Recipient)
  | requestType (t : RequestType)
  | direction (d : Direction)
  | request (r : Request)
  | packet (s : SetupPacket)
  | setupBytes (b : SetupBytes)
  | descriptor (dtype dindex : Byte) (langid : Half)
  | feature (f : Feature)
  | epAddr (d : Dir) (e : EpNo)
  | devAddr (a : Option DevAddr)
  | event (ev : Option Event)
  | read (buf : List Byte) (n : Nat) (ovf : Nat)
  | writeOk
  | writeExpired
  | irqHandler (h : IrqHandler)
  | eventTag (t : EventTag)
  deriving DecidableEq, Repr

/-- The state of the machine. `cfg` holds the parameters; `main` to `stream` are the model's own fields (logs 1, 2, 8, 14,
18, 21). -/
structure State where
  cfg : Params
  /-- `HW[0..NPORTS-1]`. -/
  hw : List HwPort
  /-- `SW[0..NPORTS-1]`. -/
  sw : List SwPort
  g : Global
  /-- The steps the main context still has to take; empty between two iterations of the main loop. -/
  main : List Task
  /-- The steps the running dispatcher still has to take; empty in the main context. -/
  irq : List Task
  /-- A SPURIOUS_IRQ not yet answered by an entry, with its free input. -/
  spurious : Option Nat
  /-- What the last operation returned. -/
  ret : Ret
  /-- How many free values have been drawn. -/
  draws : Nat
  /-- How many steps an agent takes in a turn; none: until it ends or waits. -/
  quantum : Option Nat
  /-- The stimuli still to come. -/
  stream : List Stimulus
  deriving DecidableEq, Repr

/-- Why a step stops. -/
inductive Fault where
  /-- Raised by step: the next stimulus is no row of the opcode table or lacks operands. Safe: no rule of the spec gives
  such a stimulus an effect (log 30). -/
  | noSuchStimulus (e : DecodeError)
  /-- Raised by an instruction that names a port the machine does not have (00_scope.md R12: port numbers are
  `0..NPORTS-1`). Safe: no rule of the spec gives such an operand a meaning (log 34). -/
  | noSuchPort (p : Port)
  deriving DecidableEq, Repr

/-- Why an instruction is refused. -/
inductive Refusal where
  /-- Raised by exec for an instruction without a meaning: none is left. Safe. -/
  | notModelled (mnemonic : String)
  deriving DecidableEq, Repr

/-- All four bits 0 (10_state.md R42). -/
def SrcBits.zero : SrcBits := ⟨false, false, false, false⟩

/-- Every bit 0 (10_state.md R42). -/
def EpBits.zero : EpBits := Vector.replicate Config.epNumbers false

/-- `HW[p]` at power-on (10_state.md R42); the speed is a free value (log 9). -/
def HwPort.reset (p : Port) : HwPort where
  ie := .zero
  pend := .zero
  connect := false
  speed := Config.powerOnSpeed p
  epcFifo := []
  epcEpno := 0
  epcAddress := 0
  inFifo := []
  inEpno := 0
  inFlight := false
  outFifo := []
  outEpno := 0
  outAddress := 0
  stallIn := EpBits.zero
  stallOut := EpBits.zero
  pidIn := EpBits.zero
  pidOut := EpBits.zero
  outPrimed := EpBits.zero

/-- `SW[p]` at power-on (10_state.md R42). -/
def SwPort.reset : SwPort where
  x := ⟨0, 0, 0, 0, 0, 0, 0, 0⟩
  cp := .idle
  address := 0
  speed := .high
  pendingTxAck := false
  deferredAddress := none
  configValue := 0
  remoteWakeup := false
  rxBuf := []
  rxTotal := 0
  ctrSetupDropped := 0
  ctrReadOverflow := 0
  ctrWriteReset := 0
  ctrWriteOverflow := 0
  ctrUnexpected := 0
  ctrWaitExpired := 0

/-- `G` at power-on (10_state.md R42). -/
def Global.reset : Global where
  evq := []
  fatal := false
  obs := []
  ctrUnknownIrq := 0
  ctrError := 0

/-- A machine with these parameters at power-on (70_reset_and_hazards.md R291): R42's power-on column, the boot sequence
before the main context, and the model's own fields (logs 1, 2, 8, 14, 18, 21). -/
def State.powerOn (c : Params) : State where
  cfg := c
  hw := (List.range c.nports).map HwPort.reset
  sw := List.replicate c.nports SwPort.reset
  g := Global.reset
  main := bootTasks c
  irq := []
  spurious := none
  ret := .nothing
  draws := 0
  quantum := none
  stream := []

/-- The machine at power-on with the default parameters of R6 (log 11). -/
def State.reset : State := State.powerOn Params.default

end Sys2Proof.Machine
end

