-- ==== Sys2Proof/Machine/Flags.lean ====
section
/-! DEFINITION. The flags: the single-bit files indexed by source and by endpoint number (10_state.md R27, R30, R35), and
the derived flags, functions of the state with no storage of their own (10_state.md R43). -/

namespace Sys2Proof.Machine

/-- The bit of a source. -/
def srcBit (b : SrcBits) : Source → Bool
  | .ctl => b.ctl
  | .epc => b.epc
  | .out => b.out
  | .inp => b.inp

/-- Writes the bit of a source. -/
def setSrcBit (b : SrcBits) (src : Source) (v : Bool) : SrcBits :=
  match src with
  | .ctl => { b with ctl := v }
  | .epc => { b with epc := v }
  | .out => { b with out := v }
  | .inp => { b with inp := v }

/-- The bit of an endpoint number; "An endpoint number is not range-checked by any operation" (20_memory.md R60). -/
def epBit (b : EpBits) (e : EpNo) : Bool := b[e.toNat]'e.isLt

/-- Writes the bit of an endpoint number. -/
def setEpBit (b : EpBits) (e : EpNo) (v : Bool) : EpBits := b.set e.toNat v e.isLt

/-- What a write of `v` leaves in the bit of an endpoint number: there are NEP bits (10_state.md R35); one beyond them is not
there and reads 0 (log 35). -/
def epWrite (c : Params) (e : EpNo) (v : Bool) : Bool := v && decide (e.toNat < c.nep)

/-- `epc_have(p)` (R43). -/
def epcHave (h : HwPort) : Bool := !h.epcFifo.isEmpty

/-- `out_have(p)` (R43). -/
def outHave (h : HwPort) : Bool := !h.outFifo.isEmpty

/-- `in_have(p)` (R43). -/
def inHave (h : HwPort) : Bool := !h.inFifo.isEmpty

/-- `in_idle(p)` (R43). -/
def inIdle (h : HwPort) : Bool := !h.inFlight

/-- Some source of the port is enabled and pending. -/
def portLine (h : HwPort) : Bool :=
  (h.ie.ctl && h.pend.ctl) || (h.ie.epc && h.pend.epc) || (h.ie.out && h.pend.out) || (h.ie.inp && h.pend.inp)

/-- The interrupt line `irq` (R43, 60_exceptions.md R265). -/
def irqLine (s : State) : Bool := s.hw.any portLine

/-- `stall[d][e]` (10_state.md R35). -/
def stallBit (h : HwPort) : Dir → EpNo → Bool
  | .inp, e => epBit h.stallIn e
  | .out, e => epBit h.stallOut e

/-- `pid[d][e]` (10_state.md R35). -/
def pidBit (h : HwPort) : Dir → EpNo → Bool
  | .inp, e => epBit h.pidIn e
  | .out, e => epBit h.pidOut e

/-- `stall[d][e] <- v`. -/
def setStallBit (h : HwPort) (d : Dir) (e : EpNo) (v : Bool) : HwPort :=
  match d with
  | .inp => { h with stallIn := setEpBit h.stallIn e v }
  | .out => { h with stallOut := setEpBit h.stallOut e v }

/-- `pid[d][e] <- v`. -/
def setPidBit (h : HwPort) (d : Dir) (e : EpNo) (v : Bool) : HwPort :=
  match d with
  | .inp => { h with pidIn := setEpBit h.pidIn e v }
  | .out => { h with pidOut := setEpBit h.pidOut e v }

/-- A port's slice of the raw pending bitmap: bit 0 CTL, 1 EPC, 2 OUT, 3 IN (30_encoding.md R94, R96). -/
def pend4 (h : HwPort) : Nat := h.pend.ctl.toNat + 2 * h.pend.epc.toNat + 4 * h.pend.out.toNat + 8 * h.pend.inp.toNat

/-- The bits of the ports in turn, port 0 lowest (30_encoding.md R94). -/
def pendBits : List HwPort → Nat
  | [] => 0
  | h :: rest => pend4 h + 16 * pendBits rest

/-- The raw pending bitmap with the free input `extra` above it (30_encoding.md R94, 43_dispatcher_queue.md R176). -/
def rawPending (s : State) (extra : Nat) : Nat :=
  pendBits s.hw + extra * 2 ^ (4 * s.hw.length)

end Sys2Proof.Machine
end

