-- ==== Sys2Proof/Machine/Ops.lean ====
section
/-! DEFINITION. The named operations on the state: the ports' registers and FIFOs, the trace, the register-layer
operations of 42_register_ops.md, the bus agent's moves, the event queue and the conditions (00_scope.md R14), and
entering and leaving the interrupt context (60_exceptions.md R267, R268), this block's exception entry and return. -/

namespace Sys2Proof.Machine

/-! ## Ports, trace -/

/-- The machine has the port: `p` is one of `0..NPORTS-1` (00_scope.md R12, 10_state.md R20). -/
def portExists (p : Port) (s : State) : Bool := decide (p < s.hw.length) && decide (p < s.sw.length)

/-- `HW[p]`; the value for a port that does not exist is read by no instruction (log 34). -/
def hwOf (s : State) (p : Port) : HwPort := s.hw[p]?.getD (HwPort.reset p)

/-- `SW[p]`; the value for a port that does not exist is read by no instruction (log 34). -/
def swOf (s : State) (p : Port) : SwPort := s.sw[p]?.getD SwPort.reset

/-- Writes fields of `HW[p]`. -/
def updHw (p : Port) (f : HwPort → HwPort) (s : State) : State := { s with hw := s.hw.set p (f (hwOf s p)) }

/-- Writes fields of `SW[p]`. -/
def updSw (p : Port) (f : SwPort → SwPort) (s : State) : State := { s with sw := s.sw.set p (f (swOf s p)) }

/-- `obs += e` (00_scope.md R15). -/
def observe (o : Obs) (s : State) : State := { s with g := { s.g with obs := s.g.obs ++ [o] } }

/-- Stores what the operation returns (log 18). -/
def setRet (r : Ret) (s : State) : State := { s with ret := r }

/-- The packet latched on a port, `s = DEC_SETUP(x)` (44_control_engine.md). -/
def latched (s : State) (p : Port) : SetupPacket := decSetup (swOf s p).x

/-! ## FIFOs (20_memory.md R51 to R53) -/

/-- Pushes bytes one after the other into a FIFO of a depth; the bytes for which there is no room are dropped (R52). -/
def pushBytes (depth : Nat) (fifo bytes : List Byte) : List Byte := fifo ++ bytes.take (depth - fifo.length)

/-- The byte a pop returns: the oldest, or a free value of an empty FIFO (R53; log 8). -/
def popValue (s : State) (fifo : List Byte) : Byte := fifo.head?.getD (Config.freeByte s.draws)

/-- A pop of an empty FIFO draws a free value. -/
def drawIfEmpty (fifo : List Byte) (s : State) : State := if fifo.isEmpty then { s with draws := s.draws + 1 } else s

/-- The FIFO of a group. -/
def fifoOf (h : HwPort) : ReadFifo → List Byte
  | .out => h.outFifo
  | .ctrl => h.epcFifo

/-! ## Conditions (60_exceptions.md R261, R262) -/

/-- `raise Logged(kind)` for a kind whose counter is the port's and rises by 1. -/
def logPort (p : Port) (k : PortLogged) : State → State :=
  updSw p fun w =>
    match k with
    | .setupDropped => { w with ctrSetupDropped := w.ctrSetupDropped + 1 }
    | .staleFifoReset => { w with ctrWriteReset := w.ctrWriteReset + 1 }
    | .unexpected => { w with ctrUnexpected := w.ctrUnexpected + 1 }
    | .waitExpired => { w with ctrWaitExpired := w.ctrWaitExpired + 1 }

/-- `if ovf > 0: raise Logged(ReadOverflow)`: the counter rises by `ovf` (R262). -/
def logReadOverflow (p : Port) (ovf : Nat) : State → State :=
  updSw p fun w => { w with ctrReadOverflow := w.ctrReadOverflow + ovf }

/-- `raise Logged(WriteOverflow)` (R262). -/
def logWriteOverflow (p : Port) : State → State :=
  updSw p fun w => { w with ctrWriteOverflow := w.ctrWriteOverflow + 1 }

/-- `raise Logged(UnknownInterrupt)` (43_dispatcher_queue.md R182). -/
def logUnknownInterrupt (s : State) : State := { s with g := { s.g with ctrUnknownIrq := s.g.ctrUnknownIrq + 1 } }

/-- `raise Logged(ErrorEvent)` (43_dispatcher_queue.md R182). -/
def logErrorEvent (s : State) : State := { s with g := { s.g with ctrError := s.g.ctrError + 1 } }

/-- `raise Fatal(EventQueueOverflow)`: the fatal latch (R261). -/
def raiseFatal (s : State) : State := { s with g := { s.g with fatal := true } }

/-! ## Register-layer operations (42_register_ops.md); each is one atomic step (R130) -/

/-- R131. -/
def opEnableInterrupt (p : Port) (src : Source) : State → State := updHw p fun h => { h with ie := setSrcBit h.ie src true }

/-- R132. -/
def opDisableInterrupt (p : Port) (src : Source) : State → State :=
  updHw p fun h => { h with ie := setSrcBit h.ie src false }

/-- R133. -/
def opClearPending (p : Port) (src : Source) : State → State :=
  updHw p fun h => { h with pend := setSrcBit h.pend src false }

/-- R134: the raw pending bit. -/
def opIsPending (p : Port) (src : Source) (s : State) : Bool := srcBit (hwOf s p).pend src

/-- R135, with the speed that the bus agent supplies. -/
def opConnect (p : Port) (sp : Speed) (s : State) : State :=
  observe (.connect p) (updHw p (fun h => { h with connect := true, speed := sp }) s)

/-- The speed that the bus agent supplies to a CONNECT nobody gives one to (R135; log 10). -/
def drawSpeed (s : State) : Speed := Config.freeSpeed s.draws

/-- CONNECT with a drawn speed (R135; log 10). -/
def opConnectDrawn (p : Port) (s : State) : State := opConnect p (drawSpeed s) { s with draws := s.draws + 1 }

/-- The last of DISCONNECT's eight steps (R136). -/
def opDropLine (p : Port) (s : State) : State :=
  observe (.disconnect p) (updHw p (fun h => { h with connect := false }) s)

/-- R137. -/
def opCtlSpeed (p : Port) (s : State) : Speed := (hwOf s p).speed

/-- The registers that RESET_FIFO writes (R138). -/
def resetFifoRegs (g : FifoGroup) (h : HwPort) : HwPort :=
  match g with
  | .epc => { h with epcFifo := [] }
  | .inp => { h with inFifo := [], inFlight := false }
  | .out => { h with outFifo := [], outPrimed := EpBits.zero }

/-- R138. -/
def opResetFifo (p : Port) (g : FifoGroup) (s : State) : State := observe (.fifoReset p g) (updHw p (resetFifoRegs g) s)

/-- R139: both address registers in one step. -/
def opSetAddress (p : Port) (a : DevAddr) (s : State) : State :=
  observe (.addrWrite p a) (updHw p (fun h => { h with epcAddress := a, outAddress := a }) s)

/-- R140, R141. -/
def opStall (p : Port) (d : Dir) (e : EpNo) (s : State) : State :=
  observe (.stallSet p d e) (updHw p (fun h => setStallBit h d e (epWrite s.cfg e true)) s)

/-- R142, R143. -/
def opUnstall (p : Port) (d : Dir) (e : EpNo) (s : State) : State :=
  observe (.stallClr p d e) (updHw p (fun h => setStallBit h d e false) s)

/-- R144: resets the toggle to 0 whatever its value. -/
def opClearHalt (p : Port) (ea : Byte) (s : State) : State :=
  observe (.haltClr p (epAddrSplit ea).1 (epAddrSplit ea).2)
    (updHw p (fun h => setPidBit h (epAddrSplit ea).1 (epAddrSplit ea).2 false) s)

/-- R156. -/
def opIsStalled (p : Port) (d : Dir) (e : EpNo) (s : State) : Bool := stallBit (hwOf s p) d e

/-- R145. -/
def opOutHasData (p : Port) (s : State) : Bool := outHave (hwOf s p)

/-- The byte OUT_POP_BYTE returns (R146). -/
def outPopValue (p : Port) (s : State) : Byte := popValue s (hwOf s p).outFifo

/-- R146. -/
def opOutPopByte (p : Port) (s : State) : State :=
  updHw p (fun h => { h with outFifo := h.outFifo.tail }) (drawIfEmpty (hwOf s p).outFifo s)

/-- R147. -/
def opCtrlHasData (p : Port) (s : State) : Bool := epcHave (hwOf s p)

/-- The byte CTRL_POP_BYTE returns (R148). -/
def ctrlPopValue (p : Port) (s : State) : Byte := popValue s (hwOf s p).epcFifo

/-- R148. -/
def opCtrlPopByte (p : Port) (s : State) : State :=
  updHw p (fun h => { h with epcFifo := h.epcFifo.tail }) (drawIfEmpty (hwOf s p).epcFifo s)

/-- R149. -/
def opCtrlEpno (p : Port) (s : State) : EpNo := (hwOf s p).epcEpno

/-- R150. -/
def opOutEpno (p : Port) (s : State) : EpNo := (hwOf s p).outEpno

/-- R151. -/
def opOutPrime (p : Port) (e : EpNo) (s : State) : State :=
  observe (.outPrime p e) (updHw p (fun h => { h with outPrimed := setEpBit h.outPrimed e (epWrite s.cfg e true) }) s)

/-- R152. -/
def opInPushByte (p : Port) (b : Byte) (s : State) : State :=
  if (hwOf s p).inFifo.length < s.cfg.inFifoDepth then updHw p (fun h => { h with inFifo := h.inFifo ++ [b] }) s
  else logWriteOverflow p s

/-- R153. -/
def opInCommit (p : Port) (e : EpNo) (s : State) : State :=
  observe (.inCommit p e (hwOf s p).inFifo.length) (updHw p (fun h => { h with inEpno := e, inFlight := true }) s)

/-- R154. -/
def opInIsIdle (p : Port) (s : State) : Bool := inIdle (hwOf s p)

/-- R155. -/
def opInHasData (p : Port) (s : State) : Bool := inHave (hwOf s p)

/-- R157. -/
def opInEpno (p : Port) (s : State) : EpNo := (hwOf s p).inEpno

/-! ## The bus agent's moves (42_register_ops.md R158 to R163): guard and effect -/

/-- R158. -/
def hostBusResetGuard (p : Port) (s : State) : Bool := (hwOf s p).connect

/-- R158. -/
def hostBusResetMove (p : Port) (sp : Speed) (s : State) : State :=
  observe (.busReset p) (updHw p (fun h => { h with pend := setSrcBit h.pend .ctl true, speed := sp }) s)

/-- R159. -/
def hostSetupGuard (p : Port) (a : DevAddr) (s : State) : Bool := (hwOf s p).connect && decide (a = (hwOf s p).epcAddress)

/-- R159: a SETUP packet to endpoint 0 ends its stall in both directions. -/
def endStall (e : EpNo) (h : HwPort) : HwPort :=
  if e = 0 then setStallBit (setStallBit h .inp 0 false) .out 0 false else h

/-- R159. -/
def hostSetupMove (p : Port) (e : EpNo) (bytes : List Byte) (s : State) : State :=
  observe (.setup p e bytes)
    (updHw p (fun h => endStall e { h with
      epcFifo := pushBytes s.cfg.ctrlFifoDepth h.epcFifo bytes, epcEpno := e, pend := setSrcBit h.pend .epc true }) s)

/-- R160. -/
def hostOutGuard (p : Port) (a : DevAddr) (e : EpNo) (s : State) : Bool :=
  (hwOf s p).connect && decide (a = (hwOf s p).outAddress) && epBit (hwOf s p).outPrimed e &&
    !stallBit (hwOf s p) .out e

/-- R160. -/
def hostOutMove (p : Port) (e : EpNo) (bytes : List Byte) (s : State) : State :=
  observe (.outPacket p e bytes)
    (updHw p (fun h => setPidBit { h with
      outFifo := pushBytes s.cfg.outFifoDepth h.outFifo bytes, outEpno := e, outPrimed := setEpBit h.outPrimed e false,
      pend := setSrcBit h.pend .out true } .out e (epWrite s.cfg e (!pidBit h .out e))) s)

/-- R161. -/
def hostInGuard (p : Port) (a : DevAddr) (e : EpNo) (s : State) : Bool :=
  (hwOf s p).connect && decide (a = (hwOf s p).epcAddress) && (hwOf s p).inFlight &&
    decide ((hwOf s p).inEpno = e) && !stallBit (hwOf s p) .inp e

/-- R161. -/
def hostInMove (p : Port) (e : EpNo) (s : State) : State :=
  updHw p (fun h => setPidBit { h with inFifo := [], inFlight := false, pend := setSrcBit h.pend .inp true }
    .inp e (epWrite s.cfg e (!pidBit h .inp e))) (observe (.inPacket p e (hwOf s p).inFifo) s)

/-- R162: the address register that a direction's tokens are matched against. -/
def tokenAddress (h : HwPort) : Dir → DevAddr
  | .inp => h.epcAddress
  | .out => h.outAddress

/-- R162. -/
def hostSeesStallGuard (p : Port) (a : DevAddr) (d : Dir) (e : EpNo) (s : State) : Bool :=
  (hwOf s p).connect && decide (a = tokenAddress (hwOf s p) d) && stallBit (hwOf s p) d e

/-! ## The event queue (43_dispatcher_queue.md R178, R179) -/

/-- R178: a full queue is fatal and loses the event. -/
def opEvqPush (ev : Event) (s : State) : State :=
  if s.g.evq.length = s.cfg.evqCapacity then raiseFatal s else { s with g := { s.g with evq := s.g.evq ++ [ev] } }

/-- The port an event belongs to, if any (30_encoding.md R92). -/
def eventPort : Event → Option Port
  | .busReset p => some p
  | .receiveControl p _ => some p
  | .receivePacket p _ => some p
  | .sendComplete p _ => some p
  | .unknownInterrupt _ => none
  | .error => none

/-- R179: the oldest event. -/
def evqHead (s : State) : Option Event := s.g.evq.head?

/-- R179. -/
def opEvqPop (s : State) : State := { s with g := { s.g with evq := s.g.evq.tail } }

/-! ## Assignments to SW (00_scope.md R15) -/

/-- One assignment to a field of `SW[p]`. -/
def swWrite (p : Port) (w : SwWrite) : State → State :=
  updSw p fun u =>
    match w with
    | .cp c => { u with cp := c }
    | .address a => { u with address := a }
    | .speed sp => { u with speed := sp }
    | .pendingTxAck b => { u with pendingTxAck := b }
    | .deferredAddress a => { u with deferredAddress := a }
    | .configValue v => { u with configValue := v }
    | .remoteWakeup b => { u with remoteWakeup := b }
    | .rxBuf bytes => { u with rxBuf := bytes }
    | .rxTotal n => { u with rxTotal := n }

/-- `atomic { for i in 0..7: x[i] <- buf[i] }` (44_control_engine.md R192). -/
def latchSetup (p : Port) (x : SetupBytes) : State → State := updSw p fun u => { u with x := x }

/-! ## The interrupt context (60_exceptions.md R267, R268, R271) -/

/-- The priority chain (43_dispatcher_queue.md R171) of so many ports: port-major, within a port CTL, EPC, OUT, IN. -/
def priorityChain (ports : Nat) : List (Port × Source) :=
  (List.range ports).flatMap fun p => [(p, .ctl), (p, .epc), (p, .out), (p, .inp)]

/-- The interrupt agent may enter: not halted, and the line high or a spurious cause not yet answered (R170). -/
def irqEnabled (s : State) : Bool := !s.g.fatal && (irqLine s || s.spurious.isSome)

/-- Interrupt entry: nothing of the block is saved or changed; control goes to the one dispatcher, whose first work is the
priority chain (R267). The spurious cause is answered by this entry. -/
def enterInterrupt (s : State) : State :=
  { s with irq := [.irqScan (priorityChain s.hw.length) (s.spurious.getD 0)], spurious := none }

/-- The main context may take a step: not halted, and not suspended by a dispatcher run (20_memory.md R62). The return
from the dispatcher restores nothing: the main context goes on where it was suspended (R268). -/
def mainEnabled (s : State) : Bool := !s.g.fatal && s.irq.isEmpty

end Sys2Proof.Machine
end

