-- ==== Sys2Proof/Machine/Handlers.lean ====
section
/-! DEFINITION. The steps of the engine's handlers (44_control_engine.md), each written from its pseudocode: what the
main context does next, as a list of Tasks chosen by reading the main context's own state (log 19). -/

namespace Sys2Proof.Machine

/-- DISCONNECT's eight steps (42_register_ops.md R136). -/
def disconnectTasks (p : Port) : List Task :=
  [.call p (.disableInterrupt .ctl), .call p (.disableInterrupt .epc), .call p (.disableInterrupt .out),
   .call p (.disableInterrupt .inp),
   .call p (.resetFifo .epc), .call p (.resetFifo .inp), .call p (.resetFifo .out),
   .dropLine p]

/-- `SW[p].rx_buf <- []; SW[p].rx_total <- 0`. -/
def clearRxTasks (p : Port) : List Task := [.sw p (.rxBuf []), .sw p (.rxTotal 0)]

/-- CTE_BUS_RESET (R191). -/
def cteBusResetTasks (p : Port) : List Task :=
  [.sw p (.cp .idle), .sw p (.address 0), .call p (.setAddress 0), .sw p (.deferredAddress none),
   .sw p (.pendingTxAck false), .readSpeed p, .sw p (.configValue 0), .sw p (.remoteWakeup false)] ++ clearRxTasks p

/-- CTE_DISCONNECT (R217). -/
def cteDisconnectTasks (p : Port) : List Task :=
  disconnectTasks p ++
  [.sw p (.cp .idle), .sw p (.address 0), .call p (.setAddress 0), .sw p (.deferredAddress none),
   .sw p (.pendingTxAck false), .sw p (.configValue 0), .sw p (.remoteWakeup false)] ++ clearRxTasks p

/-- CTE_RECEIVE_CONTROL up to its read (R192); READ_CONTROL is READ(p, CTRL, 8) (45_endpoint_io.md R246). -/
def cteReceiveControlTasks (p : Port) : List Task :=
  [.sw p (.cp .setupReceived), .sw p (.deferredAddress none)] ++ clearRxTasks p ++
  [.readQuery p .ctrl 8 [] 0 .setup]

/-- The eight bytes read, in wire order (R192). -/
def setupOfBytes (b : List Byte) : SetupBytes :=
  ⟨b.getD 0 0, b.getD 1 0, b.getD 2 0, b.getD 3 0, b.getD 4 0, b.getD 5 0, b.getD 6 0, b.getD 7 0⟩

/-- CTE_RECEIVE_CONTROL after its read (R192). -/
def setupReadTasks (p : Port) (buf : List Byte) : List Task :=
  if buf.length < 8 then [.log p .setupDropped, .sw p (.cp .idle)] else [.latch p (setupOfBytes buf), .dispatch p]

/-- STALL_CONTROL_REQUEST (R196): IN first. -/
def stallControlRequestTasks (p : Port) : List Task := [.call p (.stallIn 0), .call p (.stallOut 0), .sw p (.cp .idle)]

/-- ACK_STATUS_STAGE (R195): the direction bit `x[0][7]` alone selects. -/
def ackStatusStageTasks (p : Port) (d : Direction) : List Task :=
  match d with
  | .deviceToHost => [.call p (.outPrime 0), .sw p (.cp .statusOut)]
  | .hostToDevice => [.call p (.writeZlp 0), .sw p (.cp .statusIn)]

/-- SEND_RESPONSE (R197); what follows WRITE is in writeReturnTasks. -/
def sendResponseTasks (p : Port) (s : State) (bytes : List Byte) : List Task :=
  let len := (latched s p).length.toNat
  if len = 0 then [.ackStatusStage p]
  else [.sw p (.cp .dataIn), .writeStart p 0 (bytes.take (min len bytes.length)) (mpsOf s.cfg (swOf s p).speed) .response]

/-- DATA_OUT_BEGIN (R212). -/
def dataOutBeginTasks (p : Port) : List Task := clearRxTasks p ++ [.call p (.outPrime 0), .sw p (.cp .dataOut)]

/-- RUN_HOOK (R211). An absent hook rejects (60_exceptions.md R263, R270). -/
def runHookTasks (p : Port) (s : State) (kind : HookKind) (k : Byte) (data : List Byte) : List Task :=
  match hookOf s.cfg.hooks kind with
  | none => [.stallControlRequest p]
  | some h =>
    match hookResult h ⟨p, latched s p, k, data⟩ with
    | .reject => [.stallControlRequest p]
    | .respond bytes =>
      match directionOf (latched s p) with
      | .deviceToHost => [.sendResponse p bytes]
      | .hostToDevice => [.ackStatusStage p]
    | .consumed ops =>
      ops.map (Task.call p) ++
        [.sw p (.cp (match directionOf (latched s p) with | .deviceToHost => .statusOut | .hostToDevice => .statusIn))]

/-- RUN_HOOK with `h` as in R210: the hook of the packet's type, and `k = x[1]`. -/
def runTypeHookTasks (p : Port) (s : State) (data : List Byte) : List Task :=
  match hookOfType (typeOf (latched s p)) with
  | none => [.stallControlRequest p]
  | some kind => [.runHook p kind (latched s p).request data]

/-! ## Request handlers (R198 to R210) -/

/-- R198. -/
def reqGetStatusTasks (p : Port) (s : State) : List Task :=
  let pk := latched s p
  match directionOf pk with
  | .hostToDevice => [.stallControlRequest p]
  | .deviceToHost =>
    match recipientOf pk with
    | .device => [.sendResponse p [BitVec.ofNat 8 (s.cfg.selfPowered.toNat + 2 * (swOf s p).remoteWakeup.toNat), 0x00]]
    | .interface => [.sendResponse p [0x00, 0x00]]
    | .endpoint => [.statusOfEndpoint p (epAddrSplit (lo8 pk.index)).1 (epAddrSplit (lo8 pk.index)).2]
    | .other => [.stallControlRequest p]
    | .reserved _ => [.stallControlRequest p]

/-- The check that R199, R200, R201, R205 and R207 share: `direction != HostToDevice or length != 0` rejects. -/
def noDataOut (pk : SetupPacket) : Bool := decide (directionOf pk = .hostToDevice) && decide (pk.length = 0)

/-- R199. -/
def reqClearFeatureTasks (p : Port) (s : State) : List Task :=
  let pk := latched s p
  if noDataOut pk then
    match recipientOf pk, featureSelect pk with
    | .endpoint, .endpointHalt =>
      (match (epAddrSplit (lo8 pk.index)).1 with
       | .inp => [.call p (.unstallIn (epAddrSplit (lo8 pk.index)).2)]
       | .out => [.call p (.unstallOut (epAddrSplit (lo8 pk.index)).2)]) ++
      [.call p (.clearHalt (lo8 pk.index)), .ackStatusStage p]
    | .device, .deviceRemoteWakeup => [.sw p (.remoteWakeup false), .ackStatusStage p]
    | _, _ => [.stallControlRequest p]
  else [.stallControlRequest p]

/-- R200. -/
def reqSetFeatureTasks (p : Port) (s : State) : List Task :=
  let pk := latched s p
  if noDataOut pk then
    match recipientOf pk, featureSelect pk with
    | .endpoint, .endpointHalt =>
      (match (epAddrSplit (lo8 pk.index)).1 with
       | .inp => [.call p (.stallIn (epAddrSplit (lo8 pk.index)).2)]
       | .out => [.call p (.stallOut (epAddrSplit (lo8 pk.index)).2)]) ++
      [.ackStatusStage p]
    | .device, .deviceRemoteWakeup => [.sw p (.remoteWakeup true), .ackStatusStage p]
    | _, _ => [.stallControlRequest p]
  else [.stallControlRequest p]

/-- R201: no address register is written here. -/
def reqSetAddressTasks (p : Port) (s : State) : List Task :=
  let pk := latched s p
  if recipientOf pk = .device ∧ noDataOut pk then
    match devAddr pk with
    | none => [.stallControlRequest p]
    | some a => [.sw p (.deferredAddress (some a)), .sw p (.pendingTxAck true), .ackStatusStage p]
  else [.stallControlRequest p]

/-- A reply from the tables, or the rejection of an absent entry (R202). -/
def tableReply (p : Port) : Option (List Byte) → List Task
  | some b => [.sendResponse p b]
  | none => [.stallControlRequest p]

/-- R202. -/
def reqGetDescriptorTasks (p : Port) (s : State) : List Task :=
  let pk := latched s p
  let dindex := (descSelect pk).2.1
  if recipientOf pk = .device ∧ directionOf pk = .deviceToHost then
    match (descSelect pk).1.toNat with
    | 1 => [.sendResponse p s.cfg.tables.device]
    | 2 => tableReply p (configBlob s.cfg.tables (swOf s p).speed dindex)
    | 3 =>
      match stringBlob s.cfg.tables dindex with
      | some b => [.sendResponse p b]
      | none =>
        match s.cfg.hooks.stringHook with
        | some _ => [.runHook p .stringHook dindex []]
        | none => [.stallControlRequest p]
    | 6 => tableReply p s.cfg.tables.qualifier
    | _ => [.stallControlRequest p]
  else [.stallControlRequest p]

/-- R203: rejected whatever the recipient, direction and length. -/
def reqSetDescriptorTasks (p : Port) : List Task := [.stallControlRequest p]

/-- R204. -/
def reqGetConfigurationTasks (p : Port) (s : State) : List Task :=
  let pk := latched s p
  if recipientOf pk = .device ∧ directionOf pk = .deviceToHost then [.sendResponse p [(swOf s p).configValue]]
  else [.stallControlRequest p]

/-- R205: `hi8(value)` is ignored. -/
def reqSetConfigurationTasks (p : Port) (s : State) : List Task :=
  let pk := latched s p
  if recipientOf pk = .device ∧ noDataOut pk then
    if lo8 pk.value = 0 ∨ configValid s.cfg.tables (swOf s p).speed (lo8 pk.value) then
      [.sw p (.configValue (lo8 pk.value)), .ackStatusStage p]
    else [.stallControlRequest p]
  else [.stallControlRequest p]

/-- R206. -/
def reqGetInterfaceTasks (p : Port) (s : State) : List Task :=
  let pk := latched s p
  if recipientOf pk = .interface ∧ directionOf pk = .deviceToHost ∧ (swOf s p).configValue ≠ 0 then
    [.sendResponse p [0x00]]
  else [.stallControlRequest p]

/-- R207. -/
def reqSetInterfaceTasks (p : Port) (s : State) : List Task :=
  let pk := latched s p
  if recipientOf pk = .interface ∧ noDataOut pk ∧ (swOf s p).configValue ≠ 0 ∧ pk.value = 0 then [.ackStatusStage p]
  else [.stallControlRequest p]

/-- R208. -/
def reqSynchFrameTasks (p : Port) : List Task := [.stallControlRequest p]

/-- R209. -/
def reqReservedTasks (p : Port) : List Task := [.stallControlRequest p]

/-- R210: a Standard packet has no hook; with one, a host-to-device data stage comes first. -/
def reqClassOrVendorTasks (p : Port) (s : State) : List Task :=
  let pk := latched s p
  match (hookOfType (typeOf pk)).bind (hookOf s.cfg.hooks) with
  | none => [.stallControlRequest p]
  | some _ =>
    if directionOf pk = .hostToDevice ∧ pk.length ≠ 0 then [.dataOutBegin p] else runTypeHookTasks p s []

/-- The steps of a handler. -/
def requestTasks (p : Port) (s : State) : Handler → List Task
  | .getStatus => reqGetStatusTasks p s
  | .clearFeature => reqClearFeatureTasks p s
  | .reserved => reqReservedTasks p
  | .setFeature => reqSetFeatureTasks p s
  | .setAddress => reqSetAddressTasks p s
  | .getDescriptor => reqGetDescriptorTasks p s
  | .setDescriptor => reqSetDescriptorTasks p
  | .getConfiguration => reqGetConfigurationTasks p s
  | .setConfiguration => reqSetConfigurationTasks p s
  | .getInterface => reqGetInterfaceTasks p s
  | .setInterface => reqSetInterfaceTasks p s
  | .synchFrame => reqSynchFrameTasks p
  | .classOrVendor => reqClassOrVendorTasks p s

/-! ## Completion events (R213, R214) -/

/-- CTE_RECEIVE_PACKET (R213). -/
def receivePacketTasks (p : Port) (s : State) : List Task :=
  match (swOf s p).cp with
  | .statusOut => [.readQuery p .out 0 [] 0 .statusOut]
  | .dataOut => [.readQuery p .out (s.cfg.rxBufLen - (swOf s p).rxBuf.length) [] 0 .dataOut]
  | .idle => [.readQuery p .out 0 [] 0 .unexpected]
  | .setupReceived => [.readQuery p .out 0 [] 0 .unexpected]
  | .dataIn => [.readQuery p .out 0 [] 0 .unexpected]
  | .statusIn => [.readQuery p .out 0 [] 0 .unexpected]

/-- The two assignments after R213's read in DataOut, and the test. -/
def dataOutReadTasks (p : Port) (s : State) (buf : List Byte) (ovf : Nat) : List Task :=
  [.sw p (.rxBuf ((swOf s p).rxBuf ++ buf)), .sw p (.rxTotal ((swOf s p).rxTotal + buf.length + ovf)),
   .receiveDecide p (buf.length + ovf)]

/-- R213: all bytes, or a short packet, ends the stage. -/
def receiveDecideTasks (p : Port) (s : State) (n : Nat) : List Task :=
  if (latched s p).length.toNat ≤ (swOf s p).rxTotal ∨ n < mpsOf s.cfg (swOf s p).speed then
    clearRxTasks p ++ runTypeHookTasks p s (swOf s p).rxBuf
  else [.call p (.outPrime 0)]

/-- CTE_SEND_COMPLETE (R214). -/
def sendCompleteTasks (p : Port) (s : State) : List Task :=
  match (swOf s p).cp with
  | .statusIn =>
    match (swOf s p).deferredAddress with
    | none => [.sw p (.cp .idle)]
    | some a =>
      if (swOf s p).pendingTxAck then []
      else [.call p (.setAddress a), .sw p (.address a), .sw p (.deferredAddress none), .sw p (.cp .idle)]
  | .idle => []
  | .setupReceived => []
  | .dataIn => []
  | .dataOut => []
  | .statusOut => []

/-! ## Main loop (43_dispatcher_queue.md R181) -/

/-- What the application does, on a port (00_scope.md R9). -/
def appTasks (p : Port) (calls : List AppCall) : List Task :=
  calls.flatMap fun c => match c with
    | .op o => [.call p o]
    | .cteDisconnect => [.cteDisconnect p]
    | .reconnect => bootPort p

/-- `APP.idle()` (R181). -/
def appIdleTasks (a : App) : List Task := a.idle.flatMap fun c => appTasks c.1 [c.2]

/-- The case of MAIN_STEP on the popped event (R181, R182). -/
def eventTasks (a : App) : Option Event → List Task
  | none => appIdleTasks a
  | some (.busReset p) => .cteBusReset p :: appTasks p (appOnEvent a (.busReset p))
  | some (.receiveControl p e) => if e = 0 then [.cteReceiveControl p] else appTasks p (appOnEvent a (.receiveControl p e))
  | some (.receivePacket p e) => if e = 0 then [.receivePacket p] else appTasks p (appOnEvent a (.receivePacket p e))
  | some (.sendComplete p e) => if e = 0 then [.sendComplete p] else appTasks p (appOnEvent a (.sendComplete p e))
  | some (.unknownInterrupt _) => [.logUnknownInterrupt]
  | some .error => [.logErrorEvent]

/-! ## Dispatcher (43_dispatcher_queue.md R172 to R175) -/

/-- The handler of a pending source, its steps in the order of its rule. -/
def irqHandlerTasks (p : Port) : Source → List Task
  | .ctl =>
    [.call p (.clearPending .ctl),
     .call p (.disableInterrupt .ctl), .call p (.disableInterrupt .epc), .call p (.disableInterrupt .inp),
     .call p (.resetFifo .epc), .call p (.resetFifo .inp), .call p (.resetFifo .out),
     .call p (.enableInterrupt .ctl), .call p (.enableInterrupt .epc), .call p (.enableInterrupt .inp),
     .evqPush (.busReset p)]
  | .epc => [.irqEpno p .receiveControl]
  | .out => [.irqEpno p .receivePacket]
  | .inp => [.call p (.clearPending .inp), .sw p (.pendingTxAck false), .irqEpno p .sendComplete]

/-- The read of the endpoint number, and what follows it (R173, R174, R175). -/
def irqEpnoTasks (p : Port) (s : State) : EpnoUse → List Task
  | .receiveControl => [.call p (.clearPending .epc), .evqPush (.receiveControl p (opCtrlEpno p s))]
  | .receivePacket => [.call p (.clearPending .out), .evqPush (.receivePacket p (opOutEpno p s))]
  | .sendComplete => [.evqPush (.sendComplete p (opInEpno p s))]

/-- One query of the priority chain: the handler of the first pending source, else the next query, else IRQ_UNKNOWN
(R170). -/
def irqScanTasks (s : State) (extra : Nat) : List (Port × Source) → List Task
  | [] => [.irqUnknown extra]
  | (p, src) :: rest => if opIsPending p src s then [.irqHandler p src] else [.irqScan rest extra]

end Sys2Proof.Machine
end

