-- ==== Sys2Proof/Machine/Tasks.lean ====
section
/-! DEFINITION. What one Task does, and a turn: an agent takes its steps one after the other until it ends, waits, or has
taken as many as the turn allows (00_scope.md R15, 20_memory.md R61; logs 1, 2, 26, 29). -/

namespace Sys2Proof.Machine

/-- What a Task leaves: the steps that take its place, the state, and whether the turn ends here: the agent waits
(45_endpoint_io.md R245), or is halted (60_exceptions.md R261). -/
structure TaskResult where
  next : List Task
  state : State
  waits : Bool

/-- A step that does not wait. -/
def goOn (next : List Task) (s : State) : TaskResult := ⟨next, s, false⟩

/-- One step of a hook, of APP, of the engine or of the boot sequence: an operation of 42 or 45; what it returns, its
caller does not use. -/
def callStep (p : Port) (o : PortOp) (s : State) : TaskResult :=
  match o with
  | .enableInterrupt src => goOn [] (opEnableInterrupt p src s)
  | .disableInterrupt src => goOn [] (opDisableInterrupt p src s)
  | .clearPending src => goOn [] (opClearPending p src s)
  | .isPending _ => goOn [] s
  | .connect => goOn [] (opConnectDrawn p s)
  | .disconnect => goOn (disconnectTasks p) s
  | .ctlSpeed => goOn [] s
  | .resetFifo g => goOn [] (opResetFifo p g s)
  | .setAddress a => goOn [] (opSetAddress p a s)
  | .stallIn e => goOn [] (opStall p .inp e s)
  | .stallOut e => goOn [] (opStall p .out e s)
  | .unstallIn e => goOn [] (opUnstall p .inp e s)
  | .unstallOut e => goOn [] (opUnstall p .out e s)
  | .clearHalt ea => goOn [] (opClearHalt p ea s)
  | .isStalled _ _ => goOn [] s
  | .outHasData => goOn [] s
  | .outPopByte => goOn [] (opOutPopByte p s)
  | .ctrlHasData => goOn [] s
  | .ctrlPopByte => goOn [] (opCtrlPopByte p s)
  | .ctrlEpno => goOn [] s
  | .outEpno => goOn [] s
  | .outPrime e => goOn [] (opOutPrime p e s)
  | .inPushByte b => goOn [] (opInPushByte p b s)
  | .inCommit e => goOn [] (opInCommit p e s)
  | .inIsIdle => goOn [] s
  | .inHasData => goOn [] s
  | .inEpno => goOn [] s
  | .read f len => goOn [.readQuery p f len [] 0 .discard] s
  | .readControl => goOn [.readQuery p .ctrl 8 [] 0 .discard] s
  | .write ep bytes size => goOn [.writeStart p ep bytes size .discard] s
  | .writeZlp ep => goOn [.writeStart p ep [] 1 .discard] s

/-! ## READ (45_endpoint_io.md R240) -/

/-- `has(F)(p)`. -/
def hasData (p : Port) (f : ReadFifo) (s : State) : Bool :=
  match f with
  | .out => opOutHasData p s
  | .ctrl => opCtrlHasData p s

/-- The byte `pop(F)(p)` returns. -/
def popByteValue (p : Port) (f : ReadFifo) (s : State) : Byte :=
  match f with
  | .out => outPopValue p s
  | .ctrl => ctrlPopValue p s

/-- `pop(F)(p)`. -/
def popByte (p : Port) (f : ReadFifo) (s : State) : State :=
  match f with
  | .out => opOutPopByte p s
  | .ctrl => opCtrlPopByte p s

/-- The query of the loop. -/
def readQueryStep (p : Port) (f : ReadFifo) (len : Nat) (buf : List Byte) (ovf : Nat) (r : ReadRet) (s : State) :
    TaskResult :=
  if hasData p f s then goOn [.readPop p f len buf ovf r] s else goOn [.readReturn p buf ovf r] s

/-- The pop, and `if n < L: buf <- buf ++ [b]; n <- n + 1 else: ovf <- ovf + 1`; `n` is the length of `buf`. -/
def readPopStep (p : Port) (f : ReadFifo) (len : Nat) (buf : List Byte) (ovf : Nat) (r : ReadRet) (s : State) :
    TaskResult :=
  if buf.length < len then goOn [.readQuery p f len (buf ++ [popByteValue p f s]) ovf r] (popByte p f s)
  else goOn [.readQuery p f len buf (ovf + 1) r] (popByte p f s)

/-- What follows READ where it was called. -/
def readReturnTasks (p : Port) (s : State) (buf : List Byte) (ovf : Nat) : ReadRet → List Task
  | .toCaller => []
  | .discard => []
  | .setup => setupReadTasks p buf
  | .statusOut => [.sw p (.cp .idle)]
  | .dataOut => dataOutReadTasks p s buf ovf
  | .unexpected => [.log p .unexpected]

/-- READ's result, stored for a caller outside only. -/
def readResult (buf : List Byte) (ovf : Nat) (r : ReadRet) (s : State) : State :=
  match r with
  | .toCaller => setRet (.read buf buf.length ovf) s
  | .discard => s
  | .setup => s
  | .statusOut => s
  | .dataOut => s
  | .unexpected => s

/-- The raise, and the return. -/
def readReturnStep (p : Port) (buf : List Byte) (ovf : Nat) (r : ReadRet) (s : State) : TaskResult :=
  let s' := if 0 < ovf then logReadOverflow p ovf s else s
  goOn (readReturnTasks p s' buf ovf r) (readResult buf ovf r s')

/-! ## WRITE (45_endpoint_io.md R242) -/

/-- The push of the next byte, or the final commit when none is left. -/
def writeNext (p : Port) (ep : EpNo) (size : Nat) (rest : List Byte) (i : Nat) (r : WriteRet) : Task :=
  match rest with
  | [] => .writeFinal p ep r
  | b :: rest' => .writePush p ep size b rest' i r

/-- The stale check. -/
def writeStartStep (p : Port) (ep : EpNo) (bytes : List Byte) (size : Nat) (r : WriteRet) (s : State) : TaskResult :=
  if opInHasData p s then goOn [.call p (.resetFifo .inp), .log p .staleFifoReset, writeNext p ep size bytes 0 r] s
  else goOn [writeNext p ep size bytes 0 r] s

/-- The push of byte `i`, and the test of the packet boundary. -/
def writePushStep (p : Port) (ep : EpNo) (size : Nat) (b : Byte) (rest : List Byte) (i : Nat) (r : WriteRet) (s : State) :
    TaskResult :=
  if (i + 1) % size = 0 ∧ rest ≠ [] then goOn [.writeBoundary p ep size rest (i + 1) r] (opInPushByte p b s)
  else goOn [writeNext p ep size rest (i + 1) r] (opInPushByte p b s)

/-- The budget of the busy-wait is used up (R245). -/
def budgetUsed (c : Params) (polls : Nat) : Bool :=
  match c.writeWaitBudget with
  | some b => decide (b ≤ polls)
  | none => false

/-- One poll: the FIFO is empty and the loop goes on; or the budget is used up; or the agent waits. -/
def writePollStep (p : Port) (ep : EpNo) (size : Nat) (rest : List Byte) (i : Nat) (polls : Nat) (r : WriteRet)
    (s : State) : TaskResult :=
  if opInHasData p s then
    if budgetUsed s.cfg (polls + 1) then goOn [.log p .waitExpired, .writeExpired p r] s
    else ⟨[.writePoll p ep size rest i (polls + 1) r], s, true⟩
  else goOn [writeNext p ep size rest i r] s

/-- What follows a WRITE that returned `ok` (R197: the acknowledgement). -/
def writeOkTasks (p : Port) : WriteRet → List Task
  | .toCaller => []
  | .discard => []
  | .response => [.ackStatusStage p]

/-- What follows a WRITE that returned `expired` (R197: the rejection). -/
def writeExpiredTasks (p : Port) : WriteRet → List Task
  | .toCaller => []
  | .discard => []
  | .response => [.stallControlRequest p]

/-- WRITE's result, stored for a caller outside only. -/
def writeResult (v : Ret) (r : WriteRet) (s : State) : State :=
  match r with
  | .toCaller => setRet v s
  | .discard => s
  | .response => s

/-! ## One step, one turn -/

/-- What a Task does. -/
def taskStep (t : Task) (s : State) : TaskResult :=
  match t with
  | .sw p w => goOn [] (swWrite p w s)
  | .call p o => callStep p o s
  | .log p k => goOn [] (logPort p k s)
  | .logUnknownInterrupt => goOn [] (logUnknownInterrupt s)
  | .logErrorEvent => goOn [] (logErrorEvent s)
  | .dropLine p => goOn [] (opDropLine p s)
  | .bootConnect p => goOn [.sw p (.speed (speedOfCode (speedCode (drawSpeed s))))] (opConnectDrawn p s)
  | .readQuery p f len buf ovf r => readQueryStep p f len buf ovf r s
  | .readPop p f len buf ovf r => readPopStep p f len buf ovf r s
  | .readReturn p buf ovf r => readReturnStep p buf ovf r s
  | .writeStart p ep bytes size r => writeStartStep p ep bytes size r s
  | .writePush p ep size b rest i r => writePushStep p ep size b rest i r s
  | .writeBoundary p ep size rest i r => goOn [.writePoll p ep size rest i 0 r] (opInCommit p ep s)
  | .writePoll p ep size rest i polls r => writePollStep p ep size rest i polls r s
  | .writeFinal p ep r => goOn (writeOkTasks p r) (writeResult .writeOk r (opInCommit p ep s))
  | .writeExpired p r => goOn (writeExpiredTasks p r) (writeResult .writeExpired r s)
  | .latch p x => goOn [] (latchSetup p x s)
  | .dispatch p => goOn [.request p (selectHandler (latched s p))] s
  | .request p h => goOn (requestTasks p s h) s
  | .statusOfEndpoint p d e => goOn [.sendResponse p [if opIsStalled p d e s then 0x01 else 0x00, 0x00]] s
  | .ackStatusStage p => goOn (ackStatusStageTasks p (directionOf (latched s p))) s
  | .stallControlRequest p => goOn (stallControlRequestTasks p) s
  | .sendResponse p bytes => goOn (sendResponseTasks p s bytes) s
  | .dataOutBegin p => goOn (dataOutBeginTasks p) s
  | .runHook p h k data => goOn (runHookTasks p s h k data) s
  | .receivePacket p => goOn (receivePacketTasks p s) s
  | .receiveDecide p n => goOn (receiveDecideTasks p s n) s
  | .sendComplete p => goOn (sendCompleteTasks p s) s
  | .readSpeed p => goOn [.sw p (.speed (opCtlSpeed p s))] s
  | .cteBusReset p => goOn (cteBusResetTasks p) s
  | .cteReceiveControl p => goOn (cteReceiveControlTasks p) s
  | .cteDisconnect p => goOn (cteDisconnectTasks p) s
  | .mainPop => goOn (eventTasks s.cfg.app (evqHead s)) (opEvqPop s)
  | .irqScan chain extra => goOn (irqScanTasks s extra chain) s
  | .irqHandler p src => goOn (irqHandlerTasks p src) s
  | .irqEpno p u => goOn (irqEpnoTasks p s u) s
  | .irqUnknown extra => goOn [.evqPush (.unknownInterrupt (rawPending s extra))] s
  | .evqPush ev => ⟨[], opEvqPush ev s, (opEvqPush ev s).g.fatal⟩

/-- At most `n` steps; answers the steps left and the state. -/
def runTasks : Nat → List Task → State → List Task × State
  | 0, ts, s => (ts, s)
  | _ + 1, [], s => ([], s)
  | n + 1, t :: ts, s =>
    let r := taskStep t s
    if r.waits then (r.next ++ ts, r.state) else runTasks n (r.next ++ ts) r.state

/-- How many steps a turn has (logs 2, 29). -/
def turnLength (s : State) : Nat := s.quantum.getD Config.turnSteps

end Sys2Proof.Machine
end

