-- ==== Sys2Proof/Machine/Turn.lean ====
section
/-! DEFINITION. How an instruction comes to be performed: a pure function answers its value; an operation of one step is
performed if its context may step; an operation of several steps is a turn of its context; a move of the bus agent is
performed if its guard holds. An instruction that is not enabled leaves everything but `ret` unchanged (logs 15, 16). -/

namespace Sys2Proof.Machine

/-- What every meaning answers. -/
abbrev Answer := Host.Outcome State Fault Refusal

/-- An instruction that names a port: it is one of the machine's ports (00_scope.md R12), or the machine stops (log 34). -/
def onPort (p : Port) (f : State → Answer) (s : State) : Answer :=
  if portExists p s then f s else .fault (.noSuchPort p)

/-- A pure function of its operands (41_setup_decode.md): it writes nothing. -/
def evalOp (r : Ret) (s : State) : Answer := .next (setRet r s)

/-- The instruction is not enabled (42_register_ops.md section 7; 60_exceptions.md R261). -/
def notEnabled (s : State) : Answer := .next (setRet .disabled s)

/-- An operation of the main context that is one atomic step: its result, then its effect. -/
def mainAtomic (r : State → Ret) (f : State → State) (s : State) : Answer :=
  if mainEnabled s then .next (setRet (r s) (f s)) else notEnabled s

/-- An operation of the interrupt context that is one atomic step. -/
def irqAtomic (f : State → State) (s : State) : Answer :=
  if s.g.fatal then notEnabled s else .next (setRet .nothing (f s))

/-- A turn of the main context that begins with an operation of several steps; what is left of it, and of a run that it
interrupted (log 17), goes on in a later turn. -/
def startMain (ts : List Task) (s : State) : Answer :=
  if mainEnabled s then
    let r := runTasks (turnLength s) ts (setRet .nothing s)
    .next { r.2 with main := r.1 ++ s.main }
  else notEnabled s

/-- A turn of the interrupt context that begins with a part of the dispatcher. -/
def startIrq (ts : List Task) (s : State) : Answer :=
  if s.g.fatal then notEnabled s
  else
    let r := runTasks (turnLength s) ts (setRet .nothing s)
    .next { r.2 with irq := r.1 ++ s.irq }

/-- The steps with which the main context goes on: the run in progress, else the next iteration of the main loop
(43_dispatcher_queue.md R181: each handler "runs to its end before the next MAIN_STEP begins"). -/
def mainWork (s : State) : List Task :=
  match s.main with
  | [] => [.mainPop]
  | t :: ts => t :: ts

/-- A turn of the main agent. -/
def mainTurn (s : State) : Answer :=
  if mainEnabled s then
    let r := runTasks (turnLength s) (mainWork s) (setRet .nothing { s with main := [] })
    .next { r.2 with main := r.1 }
  else notEnabled s

/-- The dispatcher goes on with the run in progress. -/
def continueIrq (s : State) : Answer :=
  let r := runTasks (turnLength s) s.irq (setRet .nothing { s with irq := [] })
  .next { r.2 with irq := r.1 }

/-- A turn of the interrupt agent: the run in progress, else an entry if the interrupt agent is enabled (R170). -/
def irqTurn (s : State) : Answer :=
  if s.g.fatal then notEnabled s
  else if s.irq.isEmpty then (if irqEnabled s then continueIrq (enterInterrupt s) else notEnabled s)
  else continueIrq s

/-- A move of the bus agent: "enabled only when its guard holds; a host action whose guard does not hold has no effect on
the state" (42_register_ops.md section 7). It is "not stopped by G.fatal". -/
def busMove (guard : State → Bool) (f : State → State) (s : State) : Answer :=
  if guard s then .next (setRet .nothing (f s)) else notEnabled s

end Sys2Proof.Machine
end

