-- ==== Sys2Proof/Machine/Bus.lean ====
section
/-! DEFINITION. Meanings: the bus agent's moves, 42_register_ops.md section 7 (OPIDX 0x30 to 0x35): each is one atomic step under its
guard. -/

namespace Sys2Proof.Machine

/-- `HOST_BUS_RESET` (R158). -/
def execHostBusReset (p : Port) (sp : Speed) : State → Answer :=
  onPort p <| busMove (hostBusResetGuard p) (hostBusResetMove p sp)

/-- `HOST_SETUP` (R159). -/
def execHostSetup (p : Port) (a : DevAddr) (e : EpNo) (bytes : List Byte) : State → Answer :=
  onPort p <| busMove (hostSetupGuard p a) (hostSetupMove p e bytes)

/-- `HOST_OUT_PACKET` (R160). -/
def execHostOutPacket (p : Port) (a : DevAddr) (e : EpNo) (bytes : List Byte) : State → Answer :=
  onPort p <| busMove (hostOutGuard p a e) (hostOutMove p e bytes)

/-- `HOST_IN_TAKE` (R161). -/
def execHostInTake (p : Port) (a : DevAddr) (e : EpNo) : State → Answer :=
  onPort p <| busMove (hostInGuard p a e) (hostInMove p e)

/-- `HOST_SEES_STALL` (R162). -/
def execHostSeesStall (p : Port) (a : DevAddr) (d : Dir) (e : EpNo) : State → Answer :=
  onPort p <| busMove (hostSeesStallGuard p a d e) (observe (.hostStall p d e))

/-- `SPURIOUS_IRQ` (R163): its only effect is that the next entry of the interrupt agent is enabled (log 14). -/
def execSpuriousIrq (extra : Nat) : State → Answer :=
  busMove (fun _ => true) (fun s => { s with spurious := some extra })

end Sys2Proof.Machine
end

