-- ==== Sys2Proof/Machine/Constants.lean ====
section
/-! DEFINITION. Meanings: the rows of constants and sub-cases (RT8, REQ8, VALUE16, EPADDR8, PEND4, EVENT, SPEED2;
30_encoding.md R96):
each answers the value of the decode function or of the table of its rule on its word (log 5). -/

namespace Sys2Proof.Machine

/-- `RECIPIENT.DEVICE` (R110). -/
def execRecipientDevice (rt : Byte) : State → Answer := evalOp (.recipient (decRecipient rt))

/-- `RECIPIENT.INTERFACE` (R110). -/
def execRecipientInterface (rt : Byte) : State → Answer := evalOp (.recipient (decRecipient rt))

/-- `RECIPIENT.ENDPOINT` (R110). -/
def execRecipientEndpoint (rt : Byte) : State → Answer := evalOp (.recipient (decRecipient rt))

/-- `RECIPIENT.OTHER` (R110). -/
def execRecipientOther (rt : Byte) : State → Answer := evalOp (.recipient (decRecipient rt))

/-- `RECIPIENT.RESERVED_4_7` (R110). -/
def execRecipientReserved4To7 (rt : Byte) : State → Answer := evalOp (.recipient (decRecipient rt))

/-- `RECIPIENT.RESERVED_8_15` (R110). -/
def execRecipientReserved8To15 (rt : Byte) : State → Answer := evalOp (.recipient (decRecipient rt))

/-- `RECIPIENT.RESERVED_16_31` (R110). -/
def execRecipientReserved16To31 (rt : Byte) : State → Answer := evalOp (.recipient (decRecipient rt))

/-- `TYPE.STANDARD` (R111). -/
def execTypeStandard (rt : Byte) : State → Answer := evalOp (.requestType (decType rt))

/-- `TYPE.CLASS` (R111). -/
def execTypeClass (rt : Byte) : State → Answer := evalOp (.requestType (decType rt))

/-- `TYPE.VENDOR` (R111). -/
def execTypeVendor (rt : Byte) : State → Answer := evalOp (.requestType (decType rt))

/-- `TYPE.RESERVED` (R111). -/
def execTypeReserved (rt : Byte) : State → Answer := evalOp (.requestType (decType rt))

/-- `DIRECTION.HOST_TO_DEVICE` (R112). -/
def execDirectionHostToDevice (rt : Byte) : State → Answer := evalOp (.direction (decDirection rt))

/-- `DIRECTION.DEVICE_TO_HOST` (R112). -/
def execDirectionDeviceToHost (rt : Byte) : State → Answer := evalOp (.direction (decDirection rt))

/-- `REQUEST.GET_STATUS` (R113). -/
def execRequestGetStatus : State → Answer := evalOp (.request (decRequest 0x00#8))

/-- `REQUEST.CLEAR_FEATURE` (R113). -/
def execRequestClearFeature : State → Answer := evalOp (.request (decRequest 0x01#8))

/-- `REQUEST.RESERVED_2` (R113). -/
def execRequestReserved2 : State → Answer := evalOp (.request (decRequest 0x02#8))

/-- `REQUEST.SET_FEATURE` (R113). -/
def execRequestSetFeature : State → Answer := evalOp (.request (decRequest 0x03#8))

/-- `REQUEST.RESERVED_4` (R113). -/
def execRequestReserved4 : State → Answer := evalOp (.request (decRequest 0x04#8))

/-- `REQUEST.SET_ADDRESS` (R113). -/
def execRequestSetAddress : State → Answer := evalOp (.request (decRequest 0x05#8))

/-- `REQUEST.GET_DESCRIPTOR` (R113). -/
def execRequestGetDescriptor : State → Answer := evalOp (.request (decRequest 0x06#8))

/-- `REQUEST.SET_DESCRIPTOR` (R113). -/
def execRequestSetDescriptor : State → Answer := evalOp (.request (decRequest 0x07#8))

/-- `REQUEST.GET_CONFIGURATION` (R113). -/
def execRequestGetConfiguration : State → Answer := evalOp (.request (decRequest 0x08#8))

/-- `REQUEST.SET_CONFIGURATION` (R113). -/
def execRequestSetConfiguration : State → Answer := evalOp (.request (decRequest 0x09#8))

/-- `REQUEST.GET_INTERFACE` (R113). -/
def execRequestGetInterface : State → Answer := evalOp (.request (decRequest 0x0A#8))

/-- `REQUEST.SET_INTERFACE` (R113). -/
def execRequestSetInterface : State → Answer := evalOp (.request (decRequest 0x0B#8))

/-- `REQUEST.SYNCHRONIZE_FRAME` (R113). -/
def execRequestSynchronizeFrame : State → Answer := evalOp (.request (decRequest 0x0C#8))

/-- `REQUEST.CLASS_OR_VENDOR_13` (R113). -/
def execRequestClassOrVendor13 : State → Answer := evalOp (.request (decRequest 0x0D#8))

/-- `REQUEST.CLASS_OR_VENDOR_14_15` (R113). -/
def execRequestClassOrVendor14To15 (rq : Byte) : State → Answer := evalOp (.request (decRequest rq))

/-- `REQUEST.CLASS_OR_VENDOR_16_31` (R113). -/
def execRequestClassOrVendor16To31 (rq : Byte) : State → Answer := evalOp (.request (decRequest rq))

/-- `REQUEST.CLASS_OR_VENDOR_32_63` (R113). -/
def execRequestClassOrVendor32To63 (rq : Byte) : State → Answer := evalOp (.request (decRequest rq))

/-- `REQUEST.CLASS_OR_VENDOR_64_127` (R113). -/
def execRequestClassOrVendor64To127 (rq : Byte) : State → Answer := evalOp (.request (decRequest rq))

/-- `REQUEST.CLASS_OR_VENDOR_128_255` (R113). -/
def execRequestClassOrVendor128To255 (rq : Byte) : State → Answer := evalOp (.request (decRequest rq))

/-- `FEATURE.ENDPOINT_HALT` (R118). -/
def execFeatureEndpointHalt : State → Answer := evalOp (.feature (featureSelect ⟨0, 0, 0x0000#16, 0, 0⟩))

/-- `FEATURE.DEVICE_REMOTE_WAKEUP` (R118). -/
def execFeatureDeviceRemoteWakeup : State → Answer := evalOp (.feature (featureSelect ⟨0, 0, 0x0001#16, 0, 0⟩))

/-- `EPADDR.OUT` (R119). -/
def execEpaddrOut (ea : Byte) : State → Answer := evalOp (.epAddr (epAddrSplit ea).1 (epAddrSplit ea).2)

/-- `EPADDR.IN` (R119). -/
def execEpaddrIn (ea : Byte) : State → Answer := evalOp (.epAddr (epAddrSplit ea).1 (epAddrSplit ea).2)

/-- `DEV_ADDR.VALID` (R120). -/
def execDevAddrValid (v : Half) : State → Answer := evalOp (.devAddr (devAddr ⟨0, 5, v, 0, 0⟩))

/-- `PEND4.BUS_RESET` (R172). -/
def execPend4BusReset (v : BitVec 4) : State → Answer := evalOp (.irqHandler (pendHandler v))

/-- `PEND4.RECEIVE_CONTROL` (R173). -/
def execPend4ReceiveControl (v : BitVec 4) : State → Answer := evalOp (.irqHandler (pendHandler v))

/-- `PEND4.RECEIVE_PACKET` (R174). -/
def execPend4ReceivePacket (v : BitVec 4) : State → Answer := evalOp (.irqHandler (pendHandler v))

/-- `PEND4.SEND_COMPLETE` (R175). -/
def execPend4SendComplete (v : BitVec 4) : State → Answer := evalOp (.irqHandler (pendHandler v))

/-- `PEND4.NONE` (R176). -/
def execPend4None (v : BitVec 4) : State → Answer := evalOp (.irqHandler (pendHandler v))

/-- `EVENT.BUS_RESET` (R92). -/
def execEventBusReset : State → Answer := evalOp (.eventTag .busReset)

/-- `EVENT.RECEIVE_CONTROL` (R92). -/
def execEventReceiveControl : State → Answer := evalOp (.eventTag .receiveControl)

/-- `EVENT.RECEIVE_PACKET` (R92). -/
def execEventReceivePacket : State → Answer := evalOp (.eventTag .receivePacket)

/-- `EVENT.SEND_COMPLETE` (R92). -/
def execEventSendComplete : State → Answer := evalOp (.eventTag .sendComplete)

/-- `EVENT.UNKNOWN_INTERRUPT` (R92). -/
def execEventUnknownInterrupt : State → Answer := evalOp (.eventTag .unknownInterrupt)

/-- `EVENT.ERROR` (R92). -/
def execEventError : State → Answer := evalOp (.eventTag .error)

/-- `SPEED.HIGH` (R8). -/
def execSpeedHigh : State → Answer := evalOp (.speed (speedOfCode 0))

/-- `SPEED.FULL` (R8). -/
def execSpeedFull : State → Answer := evalOp (.speed (speedOfCode 1))

/-- `SPEED.LOW` (R8). -/
def execSpeedLow : State → Answer := evalOp (.speed (speedOfCode 2))

/-- `SPEED.SUPERSPEED` (R8). -/
def execSpeedSuperspeed : State → Answer := evalOp (.speed (speedOfCode 3))

end Sys2Proof.Machine
end

