-- ==== Sys2Proof/Machine/Decoders.lean ====
section
/-! DEFINITION. Meanings: the decode and encode functions of 41_setup_decode.md (OPIDX 0x01 to 0x0A): pure functions; each
meaning answers the value of its function (log 18). -/

namespace Sys2Proof.Machine

/-- `DEC_RECIPIENT` (R110). -/
def execDecRecipient (rt : Byte) : State → Answer := evalOp (.recipient (decRecipient rt))

/-- `DEC_TYPE` (R111). -/
def execDecType (rt : Byte) : State → Answer := evalOp (.requestType (decType rt))

/-- `DEC_DIRECTION` (R112). -/
def execDecDirection (rt : Byte) : State → Answer := evalOp (.direction (decDirection rt))

/-- `DEC_REQUEST` (R113). -/
def execDecRequest (rq : Byte) : State → Answer := evalOp (.request (decRequest rq))

/-- `DEC_SETUP` (R114). -/
def execDecSetup (b : SetupBytes) : State → Answer := evalOp (.packet (decSetup b))

/-- `ENC_SETUP` (R115). -/
def execEncSetup (pk : SetupPacket) : State → Answer := evalOp (.setupBytes (encSetup pk))

/-- `DESC_SELECT` (R117). -/
def execDescSelect (pk : SetupPacket) : State → Answer :=
  evalOp (.descriptor (descSelect pk).1 (descSelect pk).2.1 (descSelect pk).2.2)

/-- `FEATURE_SELECT` (R118). -/
def execFeatureSelect (pk : SetupPacket) : State → Answer := evalOp (.feature (featureSelect pk))

/-- `EP_ADDR_SPLIT` (R119). -/
def execEpAddrSplit (ea : Byte) : State → Answer := evalOp (.epAddr (epAddrSplit ea).1 (epAddrSplit ea).2)

/-- `DEV_ADDR` (R120). -/
def execDevAddr (pk : SetupPacket) : State → Answer := evalOp (.devAddr (devAddr pk))

end Sys2Proof.Machine
end

