-- ==== Sys2Proof/Machine/Dispatcher.lean ====
section
/-! DEFINITION. Meanings: the interrupt dispatcher, the event queue and the main loop of 43_dispatcher_queue.md (OPIDX 0x40 to
0x48). -/

namespace Sys2Proof.Machine

/-- `IRQ_ENTRY` (R170). -/
def execIrqEntry : State → Answer := irqTurn

/-- `IRQ_BUS_RESET` (R172). -/
def execIrqBusReset (p : Port) : State → Answer := onPort p <| startIrq [.irqHandler p .ctl]

/-- `IRQ_RECEIVE_CONTROL` (R173). -/
def execIrqReceiveControl (p : Port) : State → Answer := onPort p <| startIrq [.irqHandler p .epc]

/-- `IRQ_RECEIVE_PACKET` (R174). -/
def execIrqReceivePacket (p : Port) : State → Answer := onPort p <| startIrq [.irqHandler p .out]

/-- `IRQ_SEND_COMPLETE` (R175). -/
def execIrqSendComplete (p : Port) : State → Answer := onPort p <| startIrq [.irqHandler p .inp]

/-- `IRQ_UNKNOWN` (R176). -/
def execIrqUnknown (extra : Nat) : State → Answer := startIrq [.irqUnknown extra]

/-- `EVQ_PUSH` (R178). -/
def execEvqPush (ev : Event) : State → Answer :=
  match eventPort ev with
  | some p => onPort p <| irqAtomic (opEvqPush ev)
  | none => irqAtomic (opEvqPush ev)

/-- `EVQ_POP` (R179). -/
def execEvqPop : State → Answer := mainAtomic (fun s => .event (evqHead s)) opEvqPop

/-- `MAIN_STEP` (R181). -/
def execMainStep : State → Answer := mainTurn

end Sys2Proof.Machine
end

