-- ==== Sys2Proof/Machine/EndpointIo.lean ====
section
/-! DEFINITION. Meanings: the endpoint I/O primitives of 45_endpoint_io.md (OPIDX 0x60 to 0x63): sequences of steps of the main
context. -/

namespace Sys2Proof.Machine

/-- `READ` (R240). -/
def execRead (p : Port) (f : ReadFifo) (len : Nat) : State → Answer :=
  onPort p <| startMain [.readQuery p f len [] 0 .toCaller]

/-- `WRITE` (R242). -/
def execWrite (p : Port) (ep : EpNo) (bytes : List Byte) (size : Nat) : State → Answer :=
  onPort p <| startMain [.writeStart p ep bytes size .toCaller]

/-- `WRITE_ZLP` (R244). -/
def execWriteZlp (p : Port) (ep : EpNo) : State → Answer := onPort p <| startMain [.writeStart p ep [] 1 .toCaller]

/-- `READ_CONTROL` (R246). -/
def execReadControl (p : Port) : State → Answer := onPort p <| startMain [.readQuery p .ctrl 8 [] 0 .toCaller]

end Sys2Proof.Machine
end

