-- ==== Sys2Proof/Machine/Engine.lean ====
section
/-! DEFINITION. Meanings: the control-transfer engine of 44_control_engine.md (OPIDX 0x50 to 0x5A): each is a sequence of steps of the
main context. -/

namespace Sys2Proof.Machine

/-- `CTE_BUS_RESET` (R191). -/
def execCteBusReset (p : Port) : State → Answer := onPort p <| startMain [.cteBusReset p]

/-- `CTE_RECEIVE_CONTROL` (R192). -/
def execCteReceiveControl (p : Port) : State → Answer := onPort p <| startMain [.cteReceiveControl p]

/-- `CTE_DISPATCH` (R193). -/
def execCteDispatch (p : Port) : State → Answer := onPort p <| startMain [.dispatch p]

/-- `ACK_STATUS_STAGE` (R195). -/
def execAckStatusStage (p : Port) : State → Answer := onPort p <| startMain [.ackStatusStage p]

/-- `STALL_CONTROL_REQUEST` (R196). -/
def execStallControlRequest (p : Port) : State → Answer := onPort p <| startMain [.stallControlRequest p]

/-- `SEND_RESPONSE` (R197). -/
def execSendResponse (p : Port) (bytes : List Byte) : State → Answer := onPort p <| startMain [.sendResponse p bytes]

/-- `DATA_OUT_BEGIN` (R212). -/
def execDataOutBegin (p : Port) : State → Answer := onPort p <| startMain [.dataOutBegin p]

/-- `CTE_RECEIVE_PACKET` (R213). -/
def execCteReceivePacket (p : Port) : State → Answer := onPort p <| startMain [.receivePacket p]

/-- `CTE_SEND_COMPLETE` (R214). -/
def execCteSendComplete (p : Port) : State → Answer := onPort p <| startMain [.sendComplete p]

/-- `CTE_DISCONNECT` (R217). -/
def execCteDisconnect (p : Port) : State → Answer := onPort p <| startMain [.cteDisconnect p]

/-- `RUN_HOOK` (R211). -/
def execRunHook (p : Port) (h : HookKind) (k : Byte) (data : List Byte) : State → Answer :=
  onPort p <| startMain [.runHook p h k data]

end Sys2Proof.Machine
end

