-- ==== Sys2Proof/Machine/Register.lean ====
section
/-! DEFINITION. Meanings: the register-layer operations of 42_register_ops.md (OPIDX 0x10 to 0x2A): each is one atomic step but
DISCONNECT, a sequence of eight. -/

namespace Sys2Proof.Machine

/-- `ENABLE_INTERRUPT` (R131). -/
def execEnableInterrupt (p : Port) (src : Source) : State → Answer :=
  onPort p <| mainAtomic (fun _ => .nothing) (opEnableInterrupt p src)

/-- `DISABLE_INTERRUPT` (R132). -/
def execDisableInterrupt (p : Port) (src : Source) : State → Answer :=
  onPort p <| mainAtomic (fun _ => .nothing) (opDisableInterrupt p src)

/-- `CLEAR_PENDING` (R133). -/
def execClearPending (p : Port) (src : Source) : State → Answer :=
  onPort p <| mainAtomic (fun _ => .nothing) (opClearPending p src)

/-- `IS_PENDING` (R134). -/
def execIsPending (p : Port) (src : Source) : State → Answer :=
  onPort p <| mainAtomic (fun s => .bool (opIsPending p src s)) id

/-- `CONNECT` (R135). -/
def execConnect (p : Port) (sp : Speed) : State → Answer :=
  onPort p <| mainAtomic (fun _ => .code (speedCode sp)) (opConnect p sp)

/-- `DISCONNECT` (R136). -/
def execDisconnect (p : Port) : State → Answer := onPort p <| startMain (disconnectTasks p)

/-- `CTL_SPEED` (R137). -/
def execCtlSpeed (p : Port) : State → Answer := onPort p <| mainAtomic (fun s => .speed (opCtlSpeed p s)) id

/-- `RESET_FIFO` (R138). -/
def execResetFifo (p : Port) (g : FifoGroup) : State → Answer :=
  onPort p <| mainAtomic (fun _ => .nothing) (opResetFifo p g)

/-- `SET_ADDRESS` (R139). -/
def execSetAddress (p : Port) (a : DevAddr) : State → Answer :=
  onPort p <| mainAtomic (fun _ => .nothing) (opSetAddress p a)

/-- `STALL_IN` (R140). -/
def execStallIn (p : Port) (e : EpNo) : State → Answer :=
  onPort p <| mainAtomic (fun _ => .nothing) (opStall p .inp e)

/-- `STALL_OUT` (R141). -/
def execStallOut (p : Port) (e : EpNo) : State → Answer :=
  onPort p <| mainAtomic (fun _ => .nothing) (opStall p .out e)

/-- `UNSTALL_IN` (R142). -/
def execUnstallIn (p : Port) (e : EpNo) : State → Answer :=
  onPort p <| mainAtomic (fun _ => .nothing) (opUnstall p .inp e)

/-- `UNSTALL_OUT` (R143). -/
def execUnstallOut (p : Port) (e : EpNo) : State → Answer :=
  onPort p <| mainAtomic (fun _ => .nothing) (opUnstall p .out e)

/-- `CLEAR_HALT` (R144). -/
def execClearHalt (p : Port) (ea : Byte) : State → Answer :=
  onPort p <| mainAtomic (fun _ => .nothing) (opClearHalt p ea)

/-- `OUT_HAS_DATA` (R145). -/
def execOutHasData (p : Port) : State → Answer := onPort p <| mainAtomic (fun s => .bool (opOutHasData p s)) id

/-- `OUT_POP_BYTE` (R146). -/
def execOutPopByte (p : Port) : State → Answer :=
  onPort p <| mainAtomic (fun s => .byte (outPopValue p s)) (opOutPopByte p)

/-- `CTRL_HAS_DATA` (R147). -/
def execCtrlHasData (p : Port) : State → Answer := onPort p <| mainAtomic (fun s => .bool (opCtrlHasData p s)) id

/-- `CTRL_POP_BYTE` (R148). -/
def execCtrlPopByte (p : Port) : State → Answer :=
  onPort p <| mainAtomic (fun s => .byte (ctrlPopValue p s)) (opCtrlPopByte p)

/-- `CTRL_EPNO` (R149). -/
def execCtrlEpno (p : Port) : State → Answer := onPort p <| mainAtomic (fun s => .epno (opCtrlEpno p s)) id

/-- `OUT_EPNO` (R150). -/
def execOutEpno (p : Port) : State → Answer := onPort p <| mainAtomic (fun s => .epno (opOutEpno p s)) id

/-- `OUT_PRIME` (R151). -/
def execOutPrime (p : Port) (e : EpNo) : State → Answer := onPort p <| mainAtomic (fun _ => .nothing) (opOutPrime p e)

/-- `IN_PUSH_BYTE` (R152). -/
def execInPushByte (p : Port) (b : Byte) : State → Answer :=
  onPort p <| mainAtomic (fun _ => .nothing) (opInPushByte p b)

/-- `IN_COMMIT` (R153). -/
def execInCommit (p : Port) (e : EpNo) : State → Answer := onPort p <| mainAtomic (fun _ => .nothing) (opInCommit p e)

/-- `IN_IS_IDLE` (R154). -/
def execInIsIdle (p : Port) : State → Answer := onPort p <| mainAtomic (fun s => .bool (opInIsIdle p s)) id

/-- `IN_HAS_DATA` (R155). -/
def execInHasData (p : Port) : State → Answer := onPort p <| mainAtomic (fun s => .bool (opInHasData p s)) id

/-- `IS_STALLED` (R156). -/
def execIsStalled (p : Port) (d : Dir) (e : EpNo) : State → Answer :=
  onPort p <| mainAtomic (fun s => .bool (opIsStalled p d e s)) id

/-- `IN_EPNO` (R157). -/
def execInEpno (p : Port) : State → Answer := onPort p <| mainAtomic (fun s => .epno (opInEpno p s)) id

end Sys2Proof.Machine
end

