-- ==== Sys2Proof/Machine/Requests.lean ====
section
/-! DEFINITION. Meanings: the request rows (SETUP64, 30_encoding.md R99): the packet is latched, as CTE_RECEIVE_CONTROL does with a
packet it has read (44_control_engine.md R192), and the handler of the row serves it (log 6). -/

namespace Sys2Proof.Machine

/-- `REQ_GET_STATUS` (R198). -/
def execReqGetStatus (p : Port) (pk : SetupPacket) : State → Answer :=
  onPort p <| startMain [.latch p (encSetup pk), .request p .getStatus]

/-- `REQ_CLEAR_FEATURE` (R199). -/
def execReqClearFeature (p : Port) (pk : SetupPacket) : State → Answer :=
  onPort p <| startMain [.latch p (encSetup pk), .request p .clearFeature]

/-- `REQ_RESERVED.STD_2` (R209). -/
def execReqReservedStd2 (p : Port) (pk : SetupPacket) : State → Answer :=
  onPort p <| startMain [.latch p (encSetup pk), .request p .reserved]

/-- `REQ_SET_FEATURE` (R200). -/
def execReqSetFeature (p : Port) (pk : SetupPacket) : State → Answer :=
  onPort p <| startMain [.latch p (encSetup pk), .request p .setFeature]

/-- `REQ_RESERVED.STD_4` (R209). -/
def execReqReservedStd4 (p : Port) (pk : SetupPacket) : State → Answer :=
  onPort p <| startMain [.latch p (encSetup pk), .request p .reserved]

/-- `REQ_SET_ADDRESS` (R201). -/
def execReqSetAddress (p : Port) (pk : SetupPacket) : State → Answer :=
  onPort p <| startMain [.latch p (encSetup pk), .request p .setAddress]

/-- `REQ_GET_DESCRIPTOR` (R202). -/
def execReqGetDescriptor (p : Port) (pk : SetupPacket) : State → Answer :=
  onPort p <| startMain [.latch p (encSetup pk), .request p .getDescriptor]

/-- `REQ_SET_DESCRIPTOR` (R203). -/
def execReqSetDescriptor (p : Port) (pk : SetupPacket) : State → Answer :=
  onPort p <| startMain [.latch p (encSetup pk), .request p .setDescriptor]

/-- `REQ_GET_CONFIGURATION` (R204). -/
def execReqGetConfiguration (p : Port) (pk : SetupPacket) : State → Answer :=
  onPort p <| startMain [.latch p (encSetup pk), .request p .getConfiguration]

/-- `REQ_SET_CONFIGURATION` (R205). -/
def execReqSetConfiguration (p : Port) (pk : SetupPacket) : State → Answer :=
  onPort p <| startMain [.latch p (encSetup pk), .request p .setConfiguration]

/-- `REQ_GET_INTERFACE` (R206). -/
def execReqGetInterface (p : Port) (pk : SetupPacket) : State → Answer :=
  onPort p <| startMain [.latch p (encSetup pk), .request p .getInterface]

/-- `REQ_SET_INTERFACE` (R207). -/
def execReqSetInterface (p : Port) (pk : SetupPacket) : State → Answer :=
  onPort p <| startMain [.latch p (encSetup pk), .request p .setInterface]

/-- `REQ_SYNCH_FRAME` (R208). -/
def execReqSynchFrame (p : Port) (pk : SetupPacket) : State → Answer :=
  onPort p <| startMain [.latch p (encSetup pk), .request p .synchFrame]

/-- `REQ_CLASS_OR_VENDOR.STD_13` (R210). -/
def execReqClassOrVendorStd13 (p : Port) (pk : SetupPacket) : State → Answer :=
  onPort p <| startMain [.latch p (encSetup pk), .request p .classOrVendor]

/-- `REQ_CLASS_OR_VENDOR.STD_14_15` (R210). -/
def execReqClassOrVendorStd14To15 (p : Port) (pk : SetupPacket) : State → Answer :=
  onPort p <| startMain [.latch p (encSetup pk), .request p .classOrVendor]

/-- `REQ_CLASS_OR_VENDOR.STD_16_31` (R210). -/
def execReqClassOrVendorStd16To31 (p : Port) (pk : SetupPacket) : State → Answer :=
  onPort p <| startMain [.latch p (encSetup pk), .request p .classOrVendor]

/-- `REQ_CLASS_OR_VENDOR.STD_32_63` (R210). -/
def execReqClassOrVendorStd32To63 (p : Port) (pk : SetupPacket) : State → Answer :=
  onPort p <| startMain [.latch p (encSetup pk), .request p .classOrVendor]

/-- `REQ_CLASS_OR_VENDOR.STD_64_127` (R210). -/
def execReqClassOrVendorStd64To127 (p : Port) (pk : SetupPacket) : State → Answer :=
  onPort p <| startMain [.latch p (encSetup pk), .request p .classOrVendor]

/-- `REQ_CLASS_OR_VENDOR.STD_128_255` (R210). -/
def execReqClassOrVendorStd128To255 (p : Port) (pk : SetupPacket) : State → Answer :=
  onPort p <| startMain [.latch p (encSetup pk), .request p .classOrVendor]

/-- `REQ_CLASS_OR_VENDOR.CLASS` (R210). -/
def execReqClassOrVendorClass (p : Port) (pk : SetupPacket) : State → Answer :=
  onPort p <| startMain [.latch p (encSetup pk), .request p .classOrVendor]

/-- `REQ_CLASS_OR_VENDOR.VENDOR` (R210). -/
def execReqClassOrVendorVendor (p : Port) (pk : SetupPacket) : State → Answer :=
  onPort p <| startMain [.latch p (encSetup pk), .request p .classOrVendor]

/-- `REQ_RESERVED.TYPE_3` (R209). -/
def execReqReservedType3 (p : Port) (pk : SetupPacket) : State → Answer :=
  onPort p <| startMain [.latch p (encSetup pk), .request p .reserved]

/-- `REQ_GET_DESCRIPTOR.DEVICE` (R202). -/
def execReqGetDescriptorDevice (p : Port) (pk : SetupPacket) : State → Answer :=
  onPort p <| startMain [.latch p (encSetup pk), .request p .getDescriptor]

/-- `REQ_GET_DESCRIPTOR.CONFIGURATION` (R202). -/
def execReqGetDescriptorConfiguration (p : Port) (pk : SetupPacket) : State → Answer :=
  onPort p <| startMain [.latch p (encSetup pk), .request p .getDescriptor]

/-- `REQ_GET_DESCRIPTOR.STRING` (R202). -/
def execReqGetDescriptorString (p : Port) (pk : SetupPacket) : State → Answer :=
  onPort p <| startMain [.latch p (encSetup pk), .request p .getDescriptor]

/-- `REQ_GET_DESCRIPTOR.DEVICE_QUALIFIER` (R202). -/
def execReqGetDescriptorDeviceQualifier (p : Port) (pk : SetupPacket) : State → Answer :=
  onPort p <| startMain [.latch p (encSetup pk), .request p .getDescriptor]

/-- `REQ_CLEAR_FEATURE.ENDPOINT_HALT` (R199). -/
def execReqClearFeatureEndpointHalt (p : Port) (pk : SetupPacket) : State → Answer :=
  onPort p <| startMain [.latch p (encSetup pk), .request p .clearFeature]

/-- `REQ_CLEAR_FEATURE.DEVICE_REMOTE_WAKEUP` (R199). -/
def execReqClearFeatureDeviceRemoteWakeup (p : Port) (pk : SetupPacket) : State → Answer :=
  onPort p <| startMain [.latch p (encSetup pk), .request p .clearFeature]

/-- `REQ_SET_FEATURE.ENDPOINT_HALT` (R200). -/
def execReqSetFeatureEndpointHalt (p : Port) (pk : SetupPacket) : State → Answer :=
  onPort p <| startMain [.latch p (encSetup pk), .request p .setFeature]

/-- `REQ_SET_FEATURE.DEVICE_REMOTE_WAKEUP` (R200). -/
def execReqSetFeatureDeviceRemoteWakeup (p : Port) (pk : SetupPacket) : State → Answer :=
  onPort p <| startMain [.latch p (encSetup pk), .request p .setFeature]

end Sys2Proof.Machine
end

