-- ==== Sys2Proof/Machine/Dispatch.lean ====
section
/-! DEFINITION. The dispatch of an instruction to its meaning: one arm for each constructor of Instr. -/

namespace Sys2Proof.Machine

def exec (i : Instr) (s : State) : Host.Outcome State Fault Refusal :=
  match i with
  | .decRecipient rt => Sys2Proof.Machine.execDecRecipient rt s
  | .decType rt => Sys2Proof.Machine.execDecType rt s
  | .decDirection rt => Sys2Proof.Machine.execDecDirection rt s
  | .decRequest rq => Sys2Proof.Machine.execDecRequest rq s
  | .decSetup b => Sys2Proof.Machine.execDecSetup b s
  | .encSetup pk => Sys2Proof.Machine.execEncSetup pk s
  | .descSelect pk => Sys2Proof.Machine.execDescSelect pk s
  | .featureSelect pk => Sys2Proof.Machine.execFeatureSelect pk s
  | .epAddrSplit ea => Sys2Proof.Machine.execEpAddrSplit ea s
  | .devAddr pk => Sys2Proof.Machine.execDevAddr pk s
  | .enableInterrupt p src => Sys2Proof.Machine.execEnableInterrupt p src s
  | .disableInterrupt p src => Sys2Proof.Machine.execDisableInterrupt p src s
  | .clearPending p src => Sys2Proof.Machine.execClearPending p src s
  | .isPending p src => Sys2Proof.Machine.execIsPending p src s
  | .connect p sp => Sys2Proof.Machine.execConnect p sp s
  | .disconnect p => Sys2Proof.Machine.execDisconnect p s
  | .ctlSpeed p => Sys2Proof.Machine.execCtlSpeed p s
  | .resetFifo p g => Sys2Proof.Machine.execResetFifo p g s
  | .setAddress p a => Sys2Proof.Machine.execSetAddress p a s
  | .stallIn p e => Sys2Proof.Machine.execStallIn p e s
  | .stallOut p e => Sys2Proof.Machine.execStallOut p e s
  | .unstallIn p e => Sys2Proof.Machine.execUnstallIn p e s
  | .unstallOut p e => Sys2Proof.Machine.execUnstallOut p e s
  | .clearHalt p ea => Sys2Proof.Machine.execClearHalt p ea s
  | .outHasData p => Sys2Proof.Machine.execOutHasData p s
  | .outPopByte p => Sys2Proof.Machine.execOutPopByte p s
  | .ctrlHasData p => Sys2Proof.Machine.execCtrlHasData p s
  | .ctrlPopByte p => Sys2Proof.Machine.execCtrlPopByte p s
  | .ctrlEpno p => Sys2Proof.Machine.execCtrlEpno p s
  | .outEpno p => Sys2Proof.Machine.execOutEpno p s
  | .outPrime p e => Sys2Proof.Machine.execOutPrime p e s
  | .inPushByte p b => Sys2Proof.Machine.execInPushByte p b s
  | .inCommit p e => Sys2Proof.Machine.execInCommit p e s
  | .inIsIdle p => Sys2Proof.Machine.execInIsIdle p s
  | .inHasData p => Sys2Proof.Machine.execInHasData p s
  | .isStalled p d e => Sys2Proof.Machine.execIsStalled p d e s
  | .inEpno p => Sys2Proof.Machine.execInEpno p s
  | .hostBusReset p sp => Sys2Proof.Machine.execHostBusReset p sp s
  | .hostSetup p a e bytes => Sys2Proof.Machine.execHostSetup p a e bytes s
  | .hostOutPacket p a e bytes => Sys2Proof.Machine.execHostOutPacket p a e bytes s
  | .hostInTake p a e => Sys2Proof.Machine.execHostInTake p a e s
  | .hostSeesStall p a d e => Sys2Proof.Machine.execHostSeesStall p a d e s
  | .spuriousIrq extra => Sys2Proof.Machine.execSpuriousIrq extra s
  | .irqEntry => Sys2Proof.Machine.execIrqEntry s
  | .irqBusReset p => Sys2Proof.Machine.execIrqBusReset p s
  | .irqReceiveControl p => Sys2Proof.Machine.execIrqReceiveControl p s
  | .irqReceivePacket p => Sys2Proof.Machine.execIrqReceivePacket p s
  | .irqSendComplete p => Sys2Proof.Machine.execIrqSendComplete p s
  | .irqUnknown extra => Sys2Proof.Machine.execIrqUnknown extra s
  | .evqPush ev => Sys2Proof.Machine.execEvqPush ev s
  | .evqPop => Sys2Proof.Machine.execEvqPop s
  | .mainStep => Sys2Proof.Machine.execMainStep s
  | .cteBusReset p => Sys2Proof.Machine.execCteBusReset p s
  | .cteReceiveControl p => Sys2Proof.Machine.execCteReceiveControl p s
  | .cteDispatch p => Sys2Proof.Machine.execCteDispatch p s
  | .ackStatusStage p => Sys2Proof.Machine.execAckStatusStage p s
  | .stallControlRequest p => Sys2Proof.Machine.execStallControlRequest p s
  | .sendResponse p bytes => Sys2Proof.Machine.execSendResponse p bytes s
  | .dataOutBegin p => Sys2Proof.Machine.execDataOutBegin p s
  | .cteReceivePacket p => Sys2Proof.Machine.execCteReceivePacket p s
  | .cteSendComplete p => Sys2Proof.Machine.execCteSendComplete p s
  | .cteDisconnect p => Sys2Proof.Machine.execCteDisconnect p s
  | .runHook p h k data => Sys2Proof.Machine.execRunHook p h k data s
  | .read p f len => Sys2Proof.Machine.execRead p f len s
  | .write p ep bytes size => Sys2Proof.Machine.execWrite p ep bytes size s
  | .writeZlp p ep => Sys2Proof.Machine.execWriteZlp p ep s
  | .readControl p => Sys2Proof.Machine.execReadControl p s
  | .reqGetStatus p pk => Sys2Proof.Machine.execReqGetStatus p pk s
  | .reqClearFeature p pk => Sys2Proof.Machine.execReqClearFeature p pk s
  | .reqReservedStd2 p pk => Sys2Proof.Machine.execReqReservedStd2 p pk s
  | .reqSetFeature p pk => Sys2Proof.Machine.execReqSetFeature p pk s
  | .reqReservedStd4 p pk => Sys2Proof.Machine.execReqReservedStd4 p pk s
  | .reqSetAddress p pk => Sys2Proof.Machine.execReqSetAddress p pk s
  | .reqGetDescriptor p pk => Sys2Proof.Machine.execReqGetDescriptor p pk s
  | .reqSetDescriptor p pk => Sys2Proof.Machine.execReqSetDescriptor p pk s
  | .reqGetConfiguration p pk => Sys2Proof.Machine.execReqGetConfiguration p pk s
  | .reqSetConfiguration p pk => Sys2Proof.Machine.execReqSetConfiguration p pk s
  | .reqGetInterface p pk => Sys2Proof.Machine.execReqGetInterface p pk s
  | .reqSetInterface p pk => Sys2Proof.Machine.execReqSetInterface p pk s
  | .reqSynchFrame p pk => Sys2Proof.Machine.execReqSynchFrame p pk s
  | .reqClassOrVendorStd13 p pk => Sys2Proof.Machine.execReqClassOrVendorStd13 p pk s
  | .reqClassOrVendorStd14To15 p pk => Sys2Proof.Machine.execReqClassOrVendorStd14To15 p pk s
  | .reqClassOrVendorStd16To31 p pk => Sys2Proof.Machine.execReqClassOrVendorStd16To31 p pk s
  | .reqClassOrVendorStd32To63 p pk => Sys2Proof.Machine.execReqClassOrVendorStd32To63 p pk s
  | .reqClassOrVendorStd64To127 p pk => Sys2Proof.Machine.execReqClassOrVendorStd64To127 p pk s
  | .reqClassOrVendorStd128To255 p pk => Sys2Proof.Machine.execReqClassOrVendorStd128To255 p pk s
  | .reqClassOrVendorClass p pk => Sys2Proof.Machine.execReqClassOrVendorClass p pk s
  | .reqClassOrVendorVendor p pk => Sys2Proof.Machine.execReqClassOrVendorVendor p pk s
  | .reqReservedType3 p pk => Sys2Proof.Machine.execReqReservedType3 p pk s
  | .reqGetDescriptorDevice p pk => Sys2Proof.Machine.execReqGetDescriptorDevice p pk s
  | .reqGetDescriptorConfiguration p pk => Sys2Proof.Machine.execReqGetDescriptorConfiguration p pk s
  | .reqGetDescriptorString p pk => Sys2Proof.Machine.execReqGetDescriptorString p pk s
  | .reqGetDescriptorDeviceQualifier p pk => Sys2Proof.Machine.execReqGetDescriptorDeviceQualifier p pk s
  | .reqClearFeatureEndpointHalt p pk => Sys2Proof.Machine.execReqClearFeatureEndpointHalt p pk s
  | .reqClearFeatureDeviceRemoteWakeup p pk => Sys2Proof.Machine.execReqClearFeatureDeviceRemoteWakeup p pk s
  | .reqSetFeatureEndpointHalt p pk => Sys2Proof.Machine.execReqSetFeatureEndpointHalt p pk s
  | .reqSetFeatureDeviceRemoteWakeup p pk => Sys2Proof.Machine.execReqSetFeatureDeviceRemoteWakeup p pk s
  | .recipientDevice rt => Sys2Proof.Machine.execRecipientDevice rt s
  | .recipientInterface rt => Sys2Proof.Machine.execRecipientInterface rt s
  | .recipientEndpoint rt => Sys2Proof.Machine.execRecipientEndpoint rt s
  | .recipientOther rt => Sys2Proof.Machine.execRecipientOther rt s
  | .recipientReserved4To7 rt => Sys2Proof.Machine.execRecipientReserved4To7 rt s
  | .recipientReserved8To15 rt => Sys2Proof.Machine.execRecipientReserved8To15 rt s
  | .recipientReserved16To31 rt => Sys2Proof.Machine.execRecipientReserved16To31 rt s
  | .typeStandard rt => Sys2Proof.Machine.execTypeStandard rt s
  | .typeClass rt => Sys2Proof.Machine.execTypeClass rt s
  | .typeVendor rt => Sys2Proof.Machine.execTypeVendor rt s
  | .typeReserved rt => Sys2Proof.Machine.execTypeReserved rt s
  | .directionHostToDevice rt => Sys2Proof.Machine.execDirectionHostToDevice rt s
  | .directionDeviceToHost rt => Sys2Proof.Machine.execDirectionDeviceToHost rt s
  | .requestGetStatus => Sys2Proof.Machine.execRequestGetStatus s
  | .requestClearFeature => Sys2Proof.Machine.execRequestClearFeature s
  | .requestReserved2 => Sys2Proof.Machine.execRequestReserved2 s
  | .requestSetFeature => Sys2Proof.Machine.execRequestSetFeature s
  | .requestReserved4 => Sys2Proof.Machine.execRequestReserved4 s
  | .requestSetAddress => Sys2Proof.Machine.execRequestSetAddress s
  | .requestGetDescriptor => Sys2Proof.Machine.execRequestGetDescriptor s
  | .requestSetDescriptor => Sys2Proof.Machine.execRequestSetDescriptor s
  | .requestGetConfiguration => Sys2Proof.Machine.execRequestGetConfiguration s
  | .requestSetConfiguration => Sys2Proof.Machine.execRequestSetConfiguration s
  | .requestGetInterface => Sys2Proof.Machine.execRequestGetInterface s
  | .requestSetInterface => Sys2Proof.Machine.execRequestSetInterface s
  | .requestSynchronizeFrame => Sys2Proof.Machine.execRequestSynchronizeFrame s
  | .requestClassOrVendor13 => Sys2Proof.Machine.execRequestClassOrVendor13 s
  | .requestClassOrVendor14To15 rq => Sys2Proof.Machine.execRequestClassOrVendor14To15 rq s
  | .requestClassOrVendor16To31 rq => Sys2Proof.Machine.execRequestClassOrVendor16To31 rq s
  | .requestClassOrVendor32To63 rq => Sys2Proof.Machine.execRequestClassOrVendor32To63 rq s
  | .requestClassOrVendor64To127 rq => Sys2Proof.Machine.execRequestClassOrVendor64To127 rq s
  | .requestClassOrVendor128To255 rq => Sys2Proof.Machine.execRequestClassOrVendor128To255 rq s
  | .featureEndpointHalt => Sys2Proof.Machine.execFeatureEndpointHalt s
  | .featureDeviceRemoteWakeup => Sys2Proof.Machine.execFeatureDeviceRemoteWakeup s
  | .epaddrOut ea => Sys2Proof.Machine.execEpaddrOut ea s
  | .epaddrIn ea => Sys2Proof.Machine.execEpaddrIn ea s
  | .devAddrValid v => Sys2Proof.Machine.execDevAddrValid v s
  | .pend4BusReset v => Sys2Proof.Machine.execPend4BusReset v s
  | .pend4ReceiveControl v => Sys2Proof.Machine.execPend4ReceiveControl v s
  | .pend4ReceivePacket v => Sys2Proof.Machine.execPend4ReceivePacket v s
  | .pend4SendComplete v => Sys2Proof.Machine.execPend4SendComplete v s
  | .pend4None v => Sys2Proof.Machine.execPend4None v s
  | .eventBusReset => Sys2Proof.Machine.execEventBusReset s
  | .eventReceiveControl => Sys2Proof.Machine.execEventReceiveControl s
  | .eventReceivePacket => Sys2Proof.Machine.execEventReceivePacket s
  | .eventSendComplete => Sys2Proof.Machine.execEventSendComplete s
  | .eventUnknownInterrupt => Sys2Proof.Machine.execEventUnknownInterrupt s
  | .eventError => Sys2Proof.Machine.execEventError s
  | .speedHigh => Sys2Proof.Machine.execSpeedHigh s
  | .speedFull => Sys2Proof.Machine.execSpeedFull s
  | .speedLow => Sys2Proof.Machine.execSpeedLow s
  | .speedSuperspeed => Sys2Proof.Machine.execSpeedSuperspeed s

end Sys2Proof.Machine
end

