-- ==== Sys2Proof/Machine/Step.lean ====
section
/-! DEFINITION. One step of the machine: the next stimulus of the schedule is decoded and performed; with none left, the
interrupt agent goes before the main agent (20_memory.md R61, R62; log 1). -/

namespace Sys2Proof.Machine

/-- The instruction that runs when no stimulus is left: the interrupt agent if it has a step, else the main agent. -/
def idleInstr (s : State) : Instr := if !s.irq.isEmpty || irqEnabled s then .irqEntry else .mainStep

/-- One step. -/
def step (s : State) : Host.Outcome State Fault Refusal :=
  match s.stream with
  | [] => exec (idleInstr s) s
  | u :: rest =>
    match decode u.view u.bytes with
    | .ok (i, _) => exec i { s with stream := rest }
    | .error e => .fault (.noSuchStimulus e)

/-- The same machine with a word of the opcode table as the next stimulus (log 21). -/
def State.withFetchWord (s : State) (nbits w : Nat) : State := { s with stream := tableStimulus nbits w :: s.stream }

end Sys2Proof.Machine
end

