-- ==== Sys2Proof/Safety.lean ====
section
/-! DEFINITION. What counts as a legal state of the block, in the terms the statements use: the invariants of
10_state.md R41, also in the middle of a handler, the quiescent state of 70_reset_and_hazards.md R297, what an operation
leaves, and which agent an instruction belongs to. -/

namespace Sys2Proof.Machine

/-! ## Invariants -/

/-- R41 (a): "both must match". -/
def AddressesMatch (s : State) : Prop := ∀ p, (hwOf s p).epcAddress = (hwOf s p).outAddress

/-- R41 (b): no FIFO holds more bytes than its depth. -/
def FifosFit (s : State) : Prop :=
  ∀ p, (hwOf s p).epcFifo.length ≤ s.cfg.ctrlFifoDepth ∧ (hwOf s p).inFifo.length ≤ s.cfg.inFifoDepth ∧
    (hwOf s p).outFifo.length ≤ s.cfg.outFifoDepth

/-- R41 (c): the queue holds no more events than its capacity. -/
def QueueFits (s : State) : Prop := s.g.evq.length ≤ s.cfg.evqCapacity

/-- The state is `(HW[0..NPORTS-1], SW[0..NPORTS-1], G)` (10_state.md R20) of a machine whose parameters are legal (R6). -/
structure Sized (s : State) : Prop where
  hw : s.hw.length = s.cfg.nports
  sw : s.sw.length = s.cfg.nports
  cfg : s.cfg.Legal

/-- R41 (a) to (c), and the size of the state: what every step keeps. -/
structure Inv (s : State) : Prop where
  addresses : AddressesMatch s
  fifos : FifosFit s
  queue : QueueFits s
  sized : Sized s

/-- What R41 (d) to (f) speak of, for a port; and the direction of the latched packet, which decides how its handler ends
(44_control_engine.md R195). -/
structure PipeView where
  cp : PipeState
  deferred : Option DevAddr
  rxBuf : List Byte
  rxTotal : Nat
  dir : Direction

/-- The view of a port. -/
def pipeView (s : State) (p : Port) : PipeView :=
  ⟨(swOf s p).cp, (swOf s p).deferredAddress, (swOf s p).rxBuf, (swOf s p).rxTotal, directionOf (latched s p)⟩

/-- R41 (d), for a port: the receive buffer fits, and holds and counts something only in DataOut. R41 words it for every
reachable state, but R191, R192, R213 and R217 write cp, rx_buf and rx_total one after the other: it is asked for when the main
loop pops an event (the model's reading, log 37). -/
def RxFits (c : Params) (v : PipeView) : Prop :=
  v.rxBuf.length ≤ c.rxBufLen ∧ v.rxBuf.length ≤ v.rxTotal ∧ (v.cp ≠ .dataOut → v.rxBuf = [] ∧ v.rxTotal = 0)

/-- R41 (e), for a port: an address is deferred only in StatusIn. -/
def DeferredInStatusIn (v : PipeView) : Prop := v.deferred ≠ none → v.cp = .statusIn

/-- R41 (f), for a port: no transient value of cp. -/
def AtRest (v : PipeView) : Prop := v.cp = .idle ∨ v.cp = .dataOut ∨ v.cp = .statusIn ∨ v.cp = .statusOut

/-- R41 (d) to (f), for a port. -/
structure PipeOk (c : Params) (v : PipeView) : Prop where
  rx : RxFits c v
  deferred : DeferredInStatusIn v
  rest : AtRest v

/-- R41 (d) to (f): what holds when the main loop pops an event; for (d) that is the model's reading (log 37). -/
def PipeInv (s : State) : Prop := ∀ p, PipeOk s.cfg (pipeView s p)

/-! ### R41 (d) to (f) in the middle of a handler

`PipeAfter c p ts Q v` is what the view `v` of port `p` must meet for `Q` to hold of the view when the work `ts` is done,
whatever the other agents do meanwhile to HW and to pending_tx_ack. -/

/-- The view after one assignment. -/
def PipeView.assign (v : PipeView) : SwWrite → PipeView
  | .cp x => { v with cp := x }
  | .deferredAddress a => { v with deferred := a }
  | .rxBuf bytes => { v with rxBuf := bytes }
  | .rxTotal n => { v with rxTotal := n }
  | .address _ => v
  | .speed _ => v
  | .pendingTxAck _ => v
  | .configValue _ => v
  | .remoteWakeup _ => v

/-- Nothing is deferred and nothing received: so it is while a SETUP packet is read, latched and dispatched (R192). -/
def PipeView.Clean (v : PipeView) : Prop := v.deferred = none ∧ v.rxBuf = [] ∧ v.rxTotal = 0

/-- The view after CTE_BUS_RESET or CTE_DISCONNECT (R191, R217). -/
def PipeView.cleared (v : PipeView) : PipeView := { v with cp := .idle, deferred := none, rxBuf := [], rxTotal := 0 }

/-- The view after ACK_STATUS_STAGE (R195). -/
def PipeView.acked (v : PipeView) : PipeView :=
  { v with cp := match v.dir with | .deviceToHost => .statusOut | .hostToDevice => .statusIn }

/-- The view after STALL_CONTROL_REQUEST (R196). -/
def PipeView.stalled (v : PipeView) : PipeView := { v with cp := .idle }

/-- A handler from which nothing more is known than that it leaves R41 (d) to (f) as they should be. -/
def AnyOk (c : Params) (Q : PipeView → Prop) : Prop := ∀ v, PipeOk c v → Q v

/-- A read in progress, of which `room` bytes at most are still to be handed over (R192, R213). -/
def PipeAfterRead (c : Params) (room : Nat) (Q : PipeView → Prop) (v : PipeView) : ReadRet → Prop
  | .toCaller => Q v
  | .discard => Q v
  | .unexpected => Q v
  | .statusOut => Q { v with cp := .idle }
  | .setup => v.Clean ∧ AnyOk c Q
  | .dataOut => v.cp = .dataOut ∧ v.deferred = none ∧ v.rxBuf.length ≤ v.rxTotal ∧ v.rxBuf.length + room ≤ c.rxBufLen ∧
      AnyOk c Q

/-- A write in progress (R197): acknowledged, or expired and rejected. -/
def PipeAfterWrite (Q : PipeView → Prop) (v : PipeView) : WriteRet → Prop
  | .toCaller => Q v
  | .discard => Q v
  | .response => Q v.acked ∧ Q v.stalled

/-- `PipeAfter` for one step, if it is one of the port's own. -/
def PipeAfterTask (c : Params) (Q : PipeView → Prop) (v : PipeView) : Task → Prop
  | .sw _ w => Q (v.assign w)
  | .latch _ x => Q { v with dir := directionOf (decSetup x) }
  | .readQuery _ _ len buf _ r => PipeAfterRead c (max len buf.length) Q v r
  | .readPop _ _ len buf _ r => PipeAfterRead c (max len buf.length) Q v r
  | .readReturn _ buf _ r => PipeAfterRead c buf.length Q v r
  | .writeStart _ _ _ _ r => PipeAfterWrite Q v r
  | .writePush _ _ _ _ _ _ r => PipeAfterWrite Q v r
  | .writeBoundary _ _ _ _ _ r => PipeAfterWrite Q v r
  | .writePoll _ _ _ _ _ _ r => PipeAfterWrite Q v r
  | .writeFinal _ _ r => PipeAfterWrite Q v r
  | .writeExpired _ r => PipeAfterWrite Q v r
  | .dispatch _ => v.Clean ∧ AnyOk c Q
  | .request _ _ => v.Clean ∧ AnyOk c Q
  | .statusOfEndpoint _ _ _ => Q v.acked ∧ Q v.stalled
  | .ackStatusStage _ => Q v.acked
  | .stallControlRequest _ => Q v.stalled
  | .sendResponse _ _ => Q v.acked ∧ Q v.stalled
  | .dataOutBegin _ => Q { v with rxBuf := [], rxTotal := 0, cp := .dataOut }
  | .runHook _ _ _ _ => Q v.acked ∧ Q v.stalled
  | .receivePacket _ => PipeOk c v ∧ AnyOk c Q
  | .receiveDecide _ _ => v.cp = .dataOut ∧ v.deferred = none ∧ v.rxBuf.length ≤ c.rxBufLen ∧
      v.rxBuf.length ≤ v.rxTotal ∧ AnyOk c Q
  | .sendComplete _ => PipeOk c v ∧ AnyOk c Q
  | .cteBusReset _ => Q v.cleared
  | .cteReceiveControl _ => AnyOk c Q
  | .cteDisconnect _ => Q v.cleared
  | .call _ _ => Q v
  | .log _ _ => Q v
  | .dropLine _ => Q v
  | .bootConnect _ => Q v
  | .readSpeed _ => Q v
  | .mainPop => PipeOk c v ∧ AnyOk c Q
  | .logUnknownInterrupt => Q v
  | .logErrorEvent => Q v
  | .irqScan _ _ => Q v
  | .irqHandler _ _ => Q v
  | .irqEpno _ _ => Q v
  | .irqUnknown _ => Q v
  | .evqPush _ => Q v

/-- The port a step works on; none for the main loop itself and for the dispatcher. -/
def taskPort : Task → Option Port
  | .sw p _ => some p
  | .call p _ => some p
  | .log p _ => some p
  | .logUnknownInterrupt => none
  | .logErrorEvent => none
  | .dropLine p => some p
  | .bootConnect p => some p
  | .readQuery p _ _ _ _ _ => some p
  | .readPop p _ _ _ _ _ => some p
  | .readReturn p _ _ _ => some p
  | .writeStart p _ _ _ _ => some p
  | .writePush p _ _ _ _ _ _ => some p
  | .writeBoundary p _ _ _ _ _ => some p
  | .writePoll p _ _ _ _ _ _ => some p
  | .writeFinal p _ _ => some p
  | .writeExpired p _ => some p
  | .latch p _ => some p
  | .dispatch p => some p
  | .request p _ => some p
  | .statusOfEndpoint p _ _ => some p
  | .ackStatusStage p => some p
  | .stallControlRequest p => some p
  | .sendResponse p _ => some p
  | .dataOutBegin p => some p
  | .runHook p _ _ _ => some p
  | .receivePacket p => some p
  | .receiveDecide p _ => some p
  | .sendComplete p => some p
  | .readSpeed p => some p
  | .cteBusReset p => some p
  | .cteReceiveControl p => some p
  | .cteDisconnect p => some p
  | .mainPop => none
  | .irqScan _ _ => none
  | .irqHandler _ _ => none
  | .irqEpno _ _ => none
  | .irqUnknown _ => none
  | .evqPush _ => none

/-- What the view of a port must meet before the work: step after step; another port's steps leave it as it is. -/
def PipeAfter (c : Params) (p : Port) : List Task → (PipeView → Prop) → PipeView → Prop
  | [], Q, v => Q v
  | t :: ts, Q, v =>
    if taskPort t = some p ∨ taskPort t = none then PipeAfterTask c (PipeAfter c p ts Q) v t else PipeAfter c p ts Q v

/-- R41 (d) to (f) in every state, also in the middle of a handler run that is spread over several turns: they hold again
when the main context has done the work it still has to do, and at every pop on the way. -/
def PipeInvWork (s : State) : Prop :=
  ∀ p, p < s.sw.length → PipeAfter s.cfg p s.main (PipeOk s.cfg) (pipeView s p)

/-- A quiescent port (R297). -/
structure PortQuiescent (s : State) (p : Port) : Prop where
  cp : (swOf s p).cp = .idle
  deferred : (swOf s p).deferredAddress = none
  epcFifo : (hwOf s p).epcFifo = []
  inFifo : (hwOf s p).inFifo = []
  outFifo : (hwOf s p).outFifo = []
  inFlight : (hwOf s p).inFlight = false
  outPrimed : ∀ e, epBit (hwOf s p).outPrimed e = false
  pend : ∀ src, srcBit (hwOf s p).pend src = false
  evq : ∀ ev ∈ s.g.evq, eventPort ev ≠ some p

/-- The quiescent machine (R297). -/
structure Quiescent (s : State) : Prop where
  ports : ∀ p, PortQuiescent s p
  fatal : s.g.fatal = false

/-! ## What the engine's endings leave (44_control_engine.md R195 to R197, R212; 45_endpoint_io.md R240 to R244), when no
other agent moves in between: the whole state, field by field. -/

/-- After `stall_control_request(p)` (R196). -/
def afterStall (p : Port) (s : State) : State :=
  observe (.stallSet p .out 0) (observe (.stallSet p .inp 0)
    (updSw p (fun u => { u with cp := .idle })
      (updHw p (fun h => { h with
        stallIn := setEpBit h.stallIn 0 (epWrite s.cfg 0 true),
        stallOut := setEpBit h.stallOut 0 (epWrite s.cfg 0 true) }) s)))

/-- After `READ(p, F, L)`: the FIFO is empty and what did not fit is counted (R240, R241). -/
def afterRead (p : Port) (f : ReadFifo) (len : Nat) (s : State) : State :=
  updSw p (fun u => { u with ctrReadOverflow := u.ctrReadOverflow + ((fifoOf (hwOf s p) f).length - len) })
    (updHw p (fun h => match f with
      | .out => { h with outFifo := [] }
      | .ctrl => { h with epcFifo := [] }) s)

/-- After the stale check of WRITE (R242). -/
def afterStaleCheck (p : Port) (s : State) : State :=
  if (hwOf s p).inFifo = [] then s
  else
    updSw p (fun u => { u with ctrWriteReset := u.ctrWriteReset + 1 })
      (observe (.fifoReset p .inp) (updHw p (fun h => { h with inFifo := [], inFlight := false }) s))

/-- After a WRITE of one packet (R242, R243, R244): the bytes that fit stand in the IN FIFO, committed; the others are
counted. -/
def afterWrite (p : Port) (ep : EpNo) (bytes : List Byte) (s : State) : State :=
  observe (.inCommit p ep (min bytes.length s.cfg.inFifoDepth))
    (updHw p (fun h => { h with inFifo := bytes.take s.cfg.inFifoDepth, inEpno := ep, inFlight := true })
      (updSw p (fun u => { u with ctrWriteOverflow := u.ctrWriteOverflow + (bytes.length - s.cfg.inFifoDepth) })
        (afterStaleCheck p s)))

/-- After priming endpoint 0 for the OUT status stage (R195). -/
def afterStatusOut (p : Port) (s : State) : State :=
  updSw p (fun u => { u with cp := .statusOut })
    (observe (.outPrime p 0) (updHw p (fun h => { h with
      outPrimed := setEpBit h.outPrimed 0 (epWrite s.cfg 0 true) }) s))

/-- After the status ZLP is committed (R195). -/
def afterStatusIn (p : Port) (s : State) : State := updSw p (fun u => { u with cp := .statusIn }) (afterWrite p 0 [] s)

/-- After ACK_STATUS_STAGE: "the ack direction is the inverse of the data direction" (R195). -/
def afterAck (p : Port) (s : State) : State :=
  match directionOf (latched s p) with
  | .deviceToHost => afterStatusOut p s
  | .hostToDevice => afterStatusIn p s

/-- The bytes that a reply comes to: cut to `length`, never padded (R197). -/
def replyBytes (p : Port) (s : State) (bytes : List Byte) : List Byte := bytes.take (latched s p).length.toNat

/-- After SEND_RESPONSE of a reply of at most one packet (R197): no data stage when `length = 0`. -/
def afterResponse (p : Port) (bytes : List Byte) (s : State) : State :=
  if (latched s p).length = 0 then afterAck p s else afterAck p (afterWrite p 0 (replyBytes p s bytes) s)

/-- The reply fits one packet of endpoint 0 (00_scope.md R6), so that WRITE does not wait. -/
def OnePacket (p : Port) (bytes : List Byte) (s : State) : Prop :=
  (replyBytes p s bytes).length ≤ mpsOf s.cfg (swOf s p).speed

/-- After DATA_OUT_BEGIN (R212). -/
def afterDataOutBegin (p : Port) (s : State) : State :=
  updSw p (fun u => { u with rxBuf := [], rxTotal := 0, cp := .dataOut })
    (observe (.outPrime p 0) (updHw p (fun h => { h with
      outPrimed := setEpBit h.outPrimed 0 (epWrite s.cfg 0 true) }) s))

/-- After a packet is latched (R192). -/
def afterLatch (p : Port) (pk : SetupPacket) (s : State) : State :=
  updSw p (fun u => { u with x := encSetup pk }) s

/-- After a request row's packet is latched (R192; log 6): where its handler begins. -/
def served (p : Port) (pk : SetupPacket) (s : State) : State := afterLatch p pk (setRet .nothing s)

/-- After CTE_RECEIVE_CONTROL has read `buf`, the first bytes of the control FIFO, and has not yet decided (R192). -/
def afterSetupRead (p : Port) (s : State) : State :=
  updSw p (fun u => { u with cp := .setupReceived, deferredAddress := none, rxBuf := [], rxTotal := 0 })
    (afterRead p .ctrl 8 (setRet .nothing s))

/-- After CTE_RECEIVE_CONTROL has latched the eight bytes it read (R192). -/
def afterSetupLatched (p : Port) (x : SetupBytes) (s : State) : State :=
  updSw p (fun u => { u with x := x }) (afterSetupRead p s)

/-- What CTE_RECEIVE_PACKET stores in DataOut: the bytes that fit, and the count of all of them (R213). -/
def afterDataOutRead (p : Port) (s : State) : State :=
  updSw p (fun u => { u with
      rxBuf := u.rxBuf ++ (hwOf s p).outFifo.take (s.cfg.rxBufLen - (swOf s p).rxBuf.length)
      rxTotal := u.rxTotal + (hwOf s p).outFifo.length })
    (afterRead p .out (s.cfg.rxBufLen - (swOf s p).rxBuf.length) (setRet .nothing s))

/-- The data stage ends with the bytes that stand in the OUT FIFO: "all bytes, or a short packet" (R213). -/
def DataStageEnds (p : Port) (s : State) : Prop :=
  (latched s p).length.toNat ≤ (swOf s p).rxTotal + (hwOf s p).outFifo.length ∨
    (hwOf s p).outFifo.length < mpsOf s.cfg (swOf s p).speed

/-- The machine has the port, and the main context may step. -/
def Ready (p : Port) (s : State) : Prop := portExists p s = true ∧ mainEnabled s = true

/-- The machine has the port, the main context may step, and its turn is at least `need` steps long, as long as the operation
needs. -/
def Undisturbed (p : Port) (s : State) (need : Nat) : Prop := Ready p s ∧ need ≤ turnLength s

/-- A turn of `n` steps that begins with the work `ts`; what is left of it comes before the work suspended in `s`. -/
def turnOf (n : Nat) (ts : List Task) (s : State) : Answer :=
  let r := runTasks n ts (setRet .nothing s)
  .next { r.2 with main := r.1 ++ s.main }

/-- In state `s` the instruction `i` comes to state `u` with its first `k` steps, and does from there, in what is left of its
turn, what the instruction `j` does: whatever the length of the turn. -/
def Continues (i j : Instr) (k : Nat) (s u : State) : Prop :=
  ∀ n : Nat, turnLength s = n + k → ∃ t : State, exec j { u with quantum := some n } = .next t ∧
    exec i s = .next { t with quantum := s.quantum }

/-- An operation that is one step; DISCONNECT, READ and WRITE are several. -/
def isOneStep : PortOp → Bool
  | .disconnect => false
  | .read _ _ => false
  | .readControl => false
  | .write _ _ _ => false
  | .writeZlp _ => false
  | _ => true

/-- After the operations of a hook or of APP, each of one step, in the order of the list (R211). -/
def afterOps (p : Port) (ops : List PortOp) (s : State) : State := ops.foldl (fun t o => (callStep p o t).state) s

/-- The machine has the port that the instruction names, if it names one (R12). -/
def PortPresent (port : Option Port) (s : State) : Prop := ∀ p, port = some p → portExists p s = true

/-! ## Frames -/

/-- From `s` to `t` only fields of `HW[p]` differ, the trace has the entries more, and `ret` is what the operation returned:
every other port, all of SW, the queue, the fatal latch, the counters, the parameters and the model's own fields are as
before. -/
structure HwStep (p : Port) (s t : State) (entries : List Obs) (r : Ret) : Prop where
  ports : ∀ q, q ≠ p → hwOf t q = hwOf s q
  rest : t = { s with hw := t.hw, g := { s.g with obs := s.g.obs ++ entries }, ret := r }

/-- The order in which the dispatcher looks at the sources of a port (43_dispatcher_queue.md R171). -/
def sourceRank : Source → Nat
  | .ctl => 0
  | .epc => 1
  | .out => 2
  | .inp => 3

/-- The source `src` of port `p` is pending, and no source that the dispatcher looks at before it is (R171). -/
def FirstPending (s : State) (p : Port) (src : Source) : Prop :=
  srcBit (hwOf s p).pend src = true ∧
    ∀ q src', q < p ∨ (q = p ∧ sourceRank src' < sourceRank src) → srcBit (hwOf s q).pend src' = false

/-- The event that the handler of a source pushes (R172 to R175). -/
def sourceEvent (s : State) (p : Port) : Source → Event
  | .ctl => .busReset p
  | .epc => .receiveControl p (hwOf s p).epcEpno
  | .out => .receivePacket p (hwOf s p).outEpno
  | .inp => .sendComplete p (hwOf s p).inEpno

/-- Piece `k` of the bytes of a WRITE, cut every `size` bytes (45_endpoint_io.md R243). -/
def packetOf (bytes : List Byte) (size k : Nat) : List Byte := (bytes.drop (k * size)).take size

/-- `n` turns of the main agent. -/
def mainSteps : Nat → State → Answer
  | 0, s => .next s
  | n + 1, s =>
    match exec .mainStep s with
    | .next t => mainSteps n t
    | .fault r => .fault r
    | .refused r => .refused r

/-- `n` times: the host takes the waiting packet, then the main agent goes on. -/
def takeAndGoOn (p : Port) (a : DevAddr) (e : EpNo) : Nat → State → Answer
  | 0, s => .next s
  | n + 1, s =>
    match exec (.hostInTake p a e) s with
    | .next t =>
      match exec .mainStep t with
      | .next u => takeAndGoOn p a e n u
      | .fault r => .fault r
      | .refused r => .refused r
    | .fault r => .fault r
    | .refused r => .refused r

/-- The byte counts of the commits in a stretch of the trace (R40). -/
def commitsIn (p : Port) (e : EpNo) (l : List Obs) : List Nat :=
  l.filterMap fun o => match o with
    | .inCommit q e' n => if q = p ∧ e' = e then some n else none
    | .setup _ _ _ => none
    | .outPacket _ _ _ => none
    | .inPacket _ _ _ => none
    | .hostStall _ _ _ => none
    | .busReset _ => none
    | .outPrime _ _ => none
    | .addrWrite _ _ => none
    | .stallSet _ _ _ => none
    | .stallClr _ _ _ => none
    | .haltClr _ _ _ => none
    | .fifoReset _ _ => none
    | .connect _ => none
    | .disconnect _ => none

/-- The packets the host received in a stretch of the trace (R40). -/
def packetsIn (p : Port) (e : EpNo) (l : List Obs) : List (List Byte) :=
  l.filterMap fun o => match o with
    | .inPacket q e' bytes => if q = p ∧ e' = e then some bytes else none
    | .setup _ _ _ => none
    | .outPacket _ _ _ => none
    | .inCommit _ _ _ => none
    | .hostStall _ _ _ => none
    | .busReset _ => none
    | .outPrime _ _ => none
    | .addrWrite _ _ => none
    | .stallSet _ _ _ => none
    | .stallClr _ _ _ => none
    | .haltClr _ _ _ => none
    | .fifoReset _ _ => none
    | .connect _ => none
    | .disconnect _ => none

/-! ## Contexts (20_memory.md R64, 60_exceptions.md R271) -/

/-- The interrupt context performs "only": the dispatcher's own work, CLEAR_PENDING, the endpoint-number reads, for a bus
reset DISABLE_INTERRUPT, RESET_FIFO and ENABLE_INTERRUPT, the clear of pending_tx_ack, and the push (R64). -/
def irqTask : Task → Bool
  | .call _ (.clearPending _) => true
  | .call _ (.disableInterrupt _) => true
  | .call _ (.resetFifo _) => true
  | .call _ (.enableInterrupt _) => true
  | .sw _ (.pendingTxAck b) => !b
  | .irqScan _ _ => true
  | .irqHandler _ _ => true
  | .irqEpno _ _ => true
  | .irqUnknown _ => true
  | .evqPush _ => true
  | _ => false

/-- The main context performs "Everything else" (R64): none of the dispatcher's own work, and no push. -/
def mainTask : Task → Bool
  | .irqScan _ _ => false
  | .irqHandler _ _ => false
  | .irqEpno _ _ => false
  | .irqUnknown _ => false
  | .evqPush _ => false
  | _ => true

/-- Each context holds work of its own only (R64). -/
structure Contexts (s : State) : Prop where
  main : ∀ t ∈ s.main, mainTask t = true
  irq : ∀ t ∈ s.irq, irqTask t = true

/-- No operation of the list writes the address registers, or takes an address (42_register_ops.md R139). -/
def noSetAddress (calls : List AppCall) : Bool :=
  calls.all fun c => match c with
    | .op (.setAddress _) => false
    | _ => true

/-! ## Agents (20_memory.md R61) -/

/-- Who takes the step of an instruction: the bus agent, the interrupt agent, the main agent, or nobody: the value of a
pure function. -/
inductive Agent where
  | bus | interrupt | main | nobody
  deriving DecidableEq, Repr

/-- The agent of an instruction. -/
def agentOf : Instr → Agent
  | .decRecipient _ => .nobody
  | .decType _ => .nobody
  | .decDirection _ => .nobody
  | .decRequest _ => .nobody
  | .decSetup _ => .nobody
  | .encSetup _ => .nobody
  | .descSelect _ => .nobody
  | .featureSelect _ => .nobody
  | .epAddrSplit _ => .nobody
  | .devAddr _ => .nobody
  | .enableInterrupt _ _ => .main
  | .disableInterrupt _ _ => .main
  | .clearPending _ _ => .main
  | .isPending _ _ => .main
  | .connect _ _ => .main
  | .disconnect _ => .main
  | .ctlSpeed _ => .main
  | .resetFifo _ _ => .main
  | .setAddress _ _ => .main
  | .stallIn _ _ => .main
  | .stallOut _ _ => .main
  | .unstallIn _ _ => .main
  | .unstallOut _ _ => .main
  | .clearHalt _ _ => .main
  | .outHasData _ => .main
  | .outPopByte _ => .main
  | .ctrlHasData _ => .main
  | .ctrlPopByte _ => .main
  | .ctrlEpno _ => .main
  | .outEpno _ => .main
  | .outPrime _ _ => .main
  | .inPushByte _ _ => .main
  | .inCommit _ _ => .main
  | .inIsIdle _ => .main
  | .inHasData _ => .main
  | .isStalled _ _ _ => .main
  | .inEpno _ => .main
  | .hostBusReset _ _ => .bus
  | .hostSetup _ _ _ _ => .bus
  | .hostOutPacket _ _ _ _ => .bus
  | .hostInTake _ _ _ => .bus
  | .hostSeesStall _ _ _ _ => .bus
  | .spuriousIrq _ => .bus
  | .irqEntry => .interrupt
  | .irqBusReset _ => .interrupt
  | .irqReceiveControl _ => .interrupt
  | .irqReceivePacket _ => .interrupt
  | .irqSendComplete _ => .interrupt
  | .irqUnknown _ => .interrupt
  | .evqPush _ => .interrupt
  | .evqPop => .main
  | .mainStep => .main
  | .cteBusReset _ => .main
  | .cteReceiveControl _ => .main
  | .cteDispatch _ => .main
  | .ackStatusStage _ => .main
  | .stallControlRequest _ => .main
  | .sendResponse _ _ => .main
  | .dataOutBegin _ => .main
  | .cteReceivePacket _ => .main
  | .cteSendComplete _ => .main
  | .cteDisconnect _ => .main
  | .runHook _ _ _ _ => .main
  | .read _ _ _ => .main
  | .write _ _ _ _ => .main
  | .writeZlp _ _ => .main
  | .readControl _ => .main
  | .reqGetStatus _ _ => .main
  | .reqClearFeature _ _ => .main
  | .reqReservedStd2 _ _ => .main
  | .reqSetFeature _ _ => .main
  | .reqReservedStd4 _ _ => .main
  | .reqSetAddress _ _ => .main
  | .reqGetDescriptor _ _ => .main
  | .reqSetDescriptor _ _ => .main
  | .reqGetConfiguration _ _ => .main
  | .reqSetConfiguration _ _ => .main
  | .reqGetInterface _ _ => .main
  | .reqSetInterface _ _ => .main
  | .reqSynchFrame _ _ => .main
  | .reqClassOrVendorStd13 _ _ => .main
  | .reqClassOrVendorStd14To15 _ _ => .main
  | .reqClassOrVendorStd16To31 _ _ => .main
  | .reqClassOrVendorStd32To63 _ _ => .main
  | .reqClassOrVendorStd64To127 _ _ => .main
  | .reqClassOrVendorStd128To255 _ _ => .main
  | .reqClassOrVendorClass _ _ => .main
  | .reqClassOrVendorVendor _ _ => .main
  | .reqReservedType3 _ _ => .main
  | .reqGetDescriptorDevice _ _ => .main
  | .reqGetDescriptorConfiguration _ _ => .main
  | .reqGetDescriptorString _ _ => .main
  | .reqGetDescriptorDeviceQualifier _ _ => .main
  | .reqClearFeatureEndpointHalt _ _ => .main
  | .reqClearFeatureDeviceRemoteWakeup _ _ => .main
  | .reqSetFeatureEndpointHalt _ _ => .main
  | .reqSetFeatureDeviceRemoteWakeup _ _ => .main
  | .recipientDevice _ => .nobody
  | .recipientInterface _ => .nobody
  | .recipientEndpoint _ => .nobody
  | .recipientOther _ => .nobody
  | .recipientReserved4To7 _ => .nobody
  | .recipientReserved8To15 _ => .nobody
  | .recipientReserved16To31 _ => .nobody
  | .typeStandard _ => .nobody
  | .typeClass _ => .nobody
  | .typeVendor _ => .nobody
  | .typeReserved _ => .nobody
  | .directionHostToDevice _ => .nobody
  | .directionDeviceToHost _ => .nobody
  | .requestGetStatus => .nobody
  | .requestClearFeature => .nobody
  | .requestReserved2 => .nobody
  | .requestSetFeature => .nobody
  | .requestReserved4 => .nobody
  | .requestSetAddress => .nobody
  | .requestGetDescriptor => .nobody
  | .requestSetDescriptor => .nobody
  | .requestGetConfiguration => .nobody
  | .requestSetConfiguration => .nobody
  | .requestGetInterface => .nobody
  | .requestSetInterface => .nobody
  | .requestSynchronizeFrame => .nobody
  | .requestClassOrVendor13 => .nobody
  | .requestClassOrVendor14To15 _ => .nobody
  | .requestClassOrVendor16To31 _ => .nobody
  | .requestClassOrVendor32To63 _ => .nobody
  | .requestClassOrVendor64To127 _ => .nobody
  | .requestClassOrVendor128To255 _ => .nobody
  | .featureEndpointHalt => .nobody
  | .featureDeviceRemoteWakeup => .nobody
  | .epaddrOut _ => .nobody
  | .epaddrIn _ => .nobody
  | .devAddrValid _ => .nobody
  | .pend4BusReset _ => .nobody
  | .pend4ReceiveControl _ => .nobody
  | .pend4ReceivePacket _ => .nobody
  | .pend4SendComplete _ => .nobody
  | .pend4None _ => .nobody
  | .eventBusReset => .nobody
  | .eventReceiveControl => .nobody
  | .eventReceivePacket => .nobody
  | .eventSendComplete => .nobody
  | .eventUnknownInterrupt => .nobody
  | .eventError => .nobody
  | .speedHigh => .nobody
  | .speedFull => .nobody
  | .speedLow => .nobody
  | .speedSuperspeed => .nobody

/-- The port an instruction acts on, if it names one. -/
def portOf : Instr → Option Port
  | .decRecipient _ => none
  | .decType _ => none
  | .decDirection _ => none
  | .decRequest _ => none
  | .decSetup _ => none
  | .encSetup _ => none
  | .descSelect _ => none
  | .featureSelect _ => none
  | .epAddrSplit _ => none
  | .devAddr _ => none
  | .enableInterrupt p _ => some p
  | .disableInterrupt p _ => some p
  | .clearPending p _ => some p
  | .isPending p _ => some p
  | .connect p _ => some p
  | .disconnect p => some p
  | .ctlSpeed p => some p
  | .resetFifo p _ => some p
  | .setAddress p _ => some p
  | .stallIn p _ => some p
  | .stallOut p _ => some p
  | .unstallIn p _ => some p
  | .unstallOut p _ => some p
  | .clearHalt p _ => some p
  | .outHasData p => some p
  | .outPopByte p => some p
  | .ctrlHasData p => some p
  | .ctrlPopByte p => some p
  | .ctrlEpno p => some p
  | .outEpno p => some p
  | .outPrime p _ => some p
  | .inPushByte p _ => some p
  | .inCommit p _ => some p
  | .inIsIdle p => some p
  | .inHasData p => some p
  | .isStalled p _ _ => some p
  | .inEpno p => some p
  | .hostBusReset p _ => some p
  | .hostSetup p _ _ _ => some p
  | .hostOutPacket p _ _ _ => some p
  | .hostInTake p _ _ => some p
  | .hostSeesStall p _ _ _ => some p
  | .spuriousIrq _ => none
  | .irqEntry => none
  | .irqBusReset p => some p
  | .irqReceiveControl p => some p
  | .irqReceivePacket p => some p
  | .irqSendComplete p => some p
  | .irqUnknown _ => none
  | .evqPush ev => eventPort ev
  | .evqPop => none
  | .mainStep => none
  | .cteBusReset p => some p
  | .cteReceiveControl p => some p
  | .cteDispatch p => some p
  | .ackStatusStage p => some p
  | .stallControlRequest p => some p
  | .sendResponse p _ => some p
  | .dataOutBegin p => some p
  | .cteReceivePacket p => some p
  | .cteSendComplete p => some p
  | .cteDisconnect p => some p
  | .runHook p _ _ _ => some p
  | .read p _ _ => some p
  | .write p _ _ _ => some p
  | .writeZlp p _ => some p
  | .readControl p => some p
  | .reqGetStatus p _ => some p
  | .reqClearFeature p _ => some p
  | .reqReservedStd2 p _ => some p
  | .reqSetFeature p _ => some p
  | .reqReservedStd4 p _ => some p
  | .reqSetAddress p _ => some p
  | .reqGetDescriptor p _ => some p
  | .reqSetDescriptor p _ => some p
  | .reqGetConfiguration p _ => some p
  | .reqSetConfiguration p _ => some p
  | .reqGetInterface p _ => some p
  | .reqSetInterface p _ => some p
  | .reqSynchFrame p _ => some p
  | .reqClassOrVendorStd13 p _ => some p
  | .reqClassOrVendorStd14To15 p _ => some p
  | .reqClassOrVendorStd16To31 p _ => some p
  | .reqClassOrVendorStd32To63 p _ => some p
  | .reqClassOrVendorStd64To127 p _ => some p
  | .reqClassOrVendorStd128To255 p _ => some p
  | .reqClassOrVendorClass p _ => some p
  | .reqClassOrVendorVendor p _ => some p
  | .reqReservedType3 p _ => some p
  | .reqGetDescriptorDevice p _ => some p
  | .reqGetDescriptorConfiguration p _ => some p
  | .reqGetDescriptorString p _ => some p
  | .reqGetDescriptorDeviceQualifier p _ => some p
  | .reqClearFeatureEndpointHalt p _ => some p
  | .reqClearFeatureDeviceRemoteWakeup p _ => some p
  | .reqSetFeatureEndpointHalt p _ => some p
  | .reqSetFeatureDeviceRemoteWakeup p _ => some p
  | .recipientDevice _ => none
  | .recipientInterface _ => none
  | .recipientEndpoint _ => none
  | .recipientOther _ => none
  | .recipientReserved4To7 _ => none
  | .recipientReserved8To15 _ => none
  | .recipientReserved16To31 _ => none
  | .typeStandard _ => none
  | .typeClass _ => none
  | .typeVendor _ => none
  | .typeReserved _ => none
  | .directionHostToDevice _ => none
  | .directionDeviceToHost _ => none
  | .requestGetStatus => none
  | .requestClearFeature => none
  | .requestReserved2 => none
  | .requestSetFeature => none
  | .requestReserved4 => none
  | .requestSetAddress => none
  | .requestGetDescriptor => none
  | .requestSetDescriptor => none
  | .requestGetConfiguration => none
  | .requestSetConfiguration => none
  | .requestGetInterface => none
  | .requestSetInterface => none
  | .requestSynchronizeFrame => none
  | .requestClassOrVendor13 => none
  | .requestClassOrVendor14To15 _ => none
  | .requestClassOrVendor16To31 _ => none
  | .requestClassOrVendor32To63 _ => none
  | .requestClassOrVendor64To127 _ => none
  | .requestClassOrVendor128To255 _ => none
  | .featureEndpointHalt => none
  | .featureDeviceRemoteWakeup => none
  | .epaddrOut _ => none
  | .epaddrIn _ => none
  | .devAddrValid _ => none
  | .pend4BusReset _ => none
  | .pend4ReceiveControl _ => none
  | .pend4ReceivePacket _ => none
  | .pend4SendComplete _ => none
  | .pend4None _ => none
  | .eventBusReset => none
  | .eventReceiveControl => none
  | .eventReceivePacket => none
  | .eventSendComplete => none
  | .eventUnknownInterrupt => none
  | .eventError => none
  | .speedHigh => none
  | .speedFull => none
  | .speedLow => none
  | .speedSuperspeed => none

end Sys2Proof.Machine
end

