-- ==== Sys2Proof/Certificates/Slice0/Obligations.lean ====
section
/-! DEFINITION. The statements for the provers, from the numbered rules of spec/. A statement about an operation of several
steps that nobody disturbs (`Undisturbed`) gives the whole state it leaves; `ret` is the model's own field (log 18), and
so are `main`, `irq`, `quantum` and `stream` (logs 1, 2). A port is one the machine has (`portExists`, `Ready`); NPORTS and NEP
are whatever the parameters say (R6). `epWrite` says what a write leaves in the bit of an endpoint number: the value written
below NEP, and 0 beyond it, which is the model's choice (log 35); for endpoint 0 the choice counts only where NEP is 0. -/

open Sys2Proof Sys2Proof.Machine

/-! ## Encoding -/

/-- Decoding the word of a well-formed instruction gives the instruction back, with every operand, whatever stands behind
it (the operand layout of OPIDX rows is the model's, logs 3 and 6). -/
def Obligations.DecodeEncodeRoundTrip : Prop :=
  ∀ i : Instr, i.wellFormed = true → ∀ r : List Byte, decode (viewOf i) (encode i ++ r) = .ok (i, r)

/-- Sample words, read by the decoder. The formats are those of 30_encoding.md; the model's own choices among them are the
operand bytes behind an OPIDX index (log 3), the format in which a bare word is read (log 4), the port byte behind a SETUP64
word (log 6), and that a sub-case row is read before the request row it lies in (log 7). -/
def Obligations.SampleWordsDecode : Prop :=
  decodeTableWord 8 0x07 = some (.descSelect ⟨0, 0, 0, 0, 0⟩) ∧
  decodeTableWord 8 0x1D = some (.clearHalt 0 0x00#8) ∧
  decodeTableWord 8 0x40 = some .irqEntry ∧
  decode .opidx [0x31, 0x01, 0x2A, 0x00, 0x03, 0x00, 0x80, 0x06, 0x00] =
    .ok (.hostSetup 1 42 0 [0x80, 0x06, 0x00], []) ∧
  decodeTableWord 64 0x0012000001000680 = some (.reqGetDescriptorDevice 0 ⟨0x80, 0x06, 0x0100, 0x0000, 0x0012⟩) ∧
  decodeTableWord 64 0x00000000002A0500 = some (.reqSetAddress 0 ⟨0x00, 0x05, 0x002A, 0x0000, 0x0000⟩) ∧
  decode .setup64 [0x02, 0x01, 0x00, 0x00, 0x81, 0x00, 0x00, 0x00, 0x01] =
    .ok (.reqClearFeatureEndpointHalt 1 ⟨0x02, 0x01, 0x0000, 0x0081, 0x0000⟩, []) ∧
  decode .rt8Recipient [0x82] = .ok (.recipientEndpoint 0x82, []) ∧
  decode .rt8Type [0x40] = .ok (.typeVendor 0x40, []) ∧
  decode .pend4 [0x0C] = .ok (.pend4ReceivePacket 0xC, []) ∧
  decode .opidx [0x0B] = .error (.unknownOperation 0x0B)

/-- Every packet lies in the row it is read as, and every row of the table that a packet lies in names the packet's
handler: no packet selects two handlers (the masks and patterns are the table's). -/
def Obligations.RequestRowsSelectOneHandler : Prop :=
  ∀ k : SetupPacket, packetWord k &&& rowMask (requestRow k) = rowPattern (requestRow k) ∧
    ∀ row : RequestRow, packetWord k &&& rowMask row = rowPattern row → rowHandler row = selectHandler k

/-! ## The decode functions (41_setup_decode.md) -/

/-- The laws of the decode functions: total and deterministic; round trip both ways; `le16` within 16 bits; the three
sub-fields partition the byte and determine it. -/
def Obligations.DecodeFunctionLaws : Prop :=
  (∀ rt rq : Byte, ∃! v : Recipient × RequestType × Direction × Request,
    v = (decRecipient rt, decType rt, decDirection rt, decRequest rq)) ∧
  (∀ k : SetupPacket, decSetup (encSetup k) = k) ∧
  (∀ b : SetupBytes, encSetup (decSetup b) = b) ∧
  (∀ a b : Byte, (le16 a b).toNat = 256 * b.toNat + a.toNat ∧ 256 * b.toNat + a.toNat ≤ 65535) ∧
  (∀ rt : Byte, rt.toNat
    = 128 * (rt.extractLsb' 7 1).toNat + 32 * (rt.extractLsb' 5 2).toNat + (rt.extractLsb' 0 5).toNat) ∧
  (∀ rt rt' : Byte, decDirection rt = decDirection rt' → decType rt = decType rt' → decRecipient rt = decRecipient rt' →
    rt = rt')

/-- DEC_RECIPIENT, DEC_TYPE, DEC_DIRECTION and DEC_REQUEST answer the value of their table for every byte, and change
nothing else. -/
def Obligations.ByteDecoders : Prop :=
  ∀ s : State,
    (∀ (rt : Byte) (r : Recipient),
      (rt.toNat % 32, r) ∈ [(0, Recipient.device), (1, .interface), (2, .endpoint), (3, .other)] →
        exec (.decRecipient rt) s = .next { s with ret := .recipient r }) ∧
    (∀ rt : Byte, 4 ≤ rt.toNat % 32 → ∃ n : BitVec 5, n.toNat = rt.toNat % 32 ∧
      exec (.decRecipient rt) s = .next { s with ret := .recipient (.reserved n) }) ∧
    (∀ (rt : Byte) (t : RequestType),
      (rt.toNat / 32 % 4, t) ∈ [(0, RequestType.standard), (1, .classType), (2, .vendor), (3, .reserved)] →
        exec (.decType rt) s = .next { s with ret := .requestType t }) ∧
    (∀ rt : Byte, exec (.decDirection rt) s
      = .next { s with ret := .direction (if 128 ≤ rt.toNat then .deviceToHost else .hostToDevice) }) ∧
    (∀ (rq : Byte) (r : Request),
      (rq.toNat, r) ∈ [(0, Request.getStatus), (1, .clearFeature), (2, .reserved 2), (3, .setFeature), (4, .reserved 4),
          (5, .setAddress), (6, .getDescriptor), (7, .setDescriptor), (8, .getConfiguration), (9, .setConfiguration),
          (10, .getInterface), (11, .setInterface), (12, .synchronizeFrame)] →
        exec (.decRequest rq) s = .next { s with ret := .request r }) ∧
    (∀ rq : Byte, 13 ≤ rq.toNat → exec (.decRequest rq) s = .next { s with ret := .request (.classOrVendor rq) }) ∧
    (∀ rq rq' : Byte, decRequest rq = decRequest rq' → rq = rq')

/-- DEC_SETUP and ENC_SETUP, field by field, and the four accessors of a packet. -/
def Obligations.SetupPacketCodec : Prop :=
  ∀ s : State,
    (∀ b : SetupBytes, ∃ k : SetupPacket, exec (.decSetup b) s = .next { s with ret := .packet k } ∧
      k.requestType = b.x0 ∧ k.request = b.x1 ∧
      k.value.toNat = 256 * b.x3.toNat + b.x2.toNat ∧
      k.index.toNat = 256 * b.x5.toNat + b.x4.toNat ∧
      k.length.toNat = 256 * b.x7.toNat + b.x6.toNat ∧
      recipientOf k = decRecipient b.x0 ∧ typeOf k = decType b.x0 ∧ directionOf k = decDirection b.x0 ∧
      requestOf k = decRequest b.x1) ∧
    (∀ k : SetupPacket, ∃ b : SetupBytes, exec (.encSetup k) s = .next { s with ret := .setupBytes b } ∧
      b.x0 = k.requestType ∧ b.x1 = k.request ∧
      b.x2.toNat = k.value.toNat % 256 ∧ b.x3.toNat = k.value.toNat / 256 ∧
      b.x4.toNat = k.index.toNat % 256 ∧ b.x5.toNat = k.index.toNat / 256 ∧
      b.x6.toNat = k.length.toNat % 256 ∧ b.x7.toNat = k.length.toNat / 256)

/-- DESC_SELECT, FEATURE_SELECT, EP_ADDR_SPLIT and DEV_ADDR. -/
def Obligations.SubfieldSelectors : Prop :=
  ∀ s : State,
    (∀ k : SetupPacket, ∃ dtype dindex : Byte,
      exec (.descSelect k) s = .next { s with ret := .descriptor dtype dindex k.index } ∧
      dtype.toNat = k.value.toNat / 256 ∧ dindex.toNat = k.value.toNat % 256) ∧
    (∀ k : SetupPacket, exec (.featureSelect k) s = .next { s with ret := .feature (
      if k.value.toNat = 0 then .endpointHalt
      else if k.value.toNat = 1 then .deviceRemoteWakeup
      else .unknown k.value) }) ∧
    (∀ ea : Byte, ∃ n : EpNo, n.toNat = ea.toNat % 16 ∧
      exec (.epAddrSplit ea) s = .next { s with ret := .epAddr (if 128 ≤ ea.toNat then .inp else .out) n }) ∧
    (∀ k : SetupPacket, k.value.toNat ≤ 127 → ∃ a : DevAddr, a.toNat = k.value.toNat ∧
      exec (.devAddr k) s = .next { s with ret := .devAddr (some a) }) ∧
    (∀ k : SetupPacket, 127 < k.value.toNat → exec (.devAddr k) s = .next { s with ret := .devAddr none })

/-! ## The rows of constants (30_encoding.md; what performing one means is the model's choice, log 5) -/

/-- The rows of the request_type byte and of the request byte answer the name of the row (log 5). -/
def Obligations.SetupByteRows : Prop :=
  (∀ (rt : Byte) (s : State),
      (rt.toNat % 32 = 0 → exec (.recipientDevice rt) s = .next { s with ret := .recipient .device }) ∧
      (rt.toNat % 32 = 1 → exec (.recipientInterface rt) s = .next { s with ret := .recipient .interface }) ∧
      (rt.toNat % 32 = 2 → exec (.recipientEndpoint rt) s = .next { s with ret := .recipient .endpoint }) ∧
      (rt.toNat % 32 = 3 → exec (.recipientOther rt) s = .next { s with ret := .recipient .other }) ∧
      (4 ≤ rt.toNat % 32 → rt.toNat % 32 ≤ 7 →
        exec (.recipientReserved4To7 rt) s = .next { s with ret := .recipient (.reserved (rt.extractLsb' 0 5)) }) ∧
      (8 ≤ rt.toNat % 32 → rt.toNat % 32 ≤ 15 →
        exec (.recipientReserved8To15 rt) s = .next { s with ret := .recipient (.reserved (rt.extractLsb' 0 5)) }) ∧
      (16 ≤ rt.toNat % 32 →
        exec (.recipientReserved16To31 rt) s = .next { s with ret := .recipient (.reserved (rt.extractLsb' 0 5)) }) ∧
      (rt.toNat / 32 % 4 = 0 → exec (.typeStandard rt) s = .next { s with ret := .requestType .standard }) ∧
      (rt.toNat / 32 % 4 = 1 → exec (.typeClass rt) s = .next { s with ret := .requestType .classType }) ∧
      (rt.toNat / 32 % 4 = 2 → exec (.typeVendor rt) s = .next { s with ret := .requestType .vendor }) ∧
      (rt.toNat / 32 % 4 = 3 → exec (.typeReserved rt) s = .next { s with ret := .requestType .reserved }) ∧
      (rt.toNat < 128 → exec (.directionHostToDevice rt) s = .next { s with ret := .direction .hostToDevice }) ∧
      (128 ≤ rt.toNat → exec (.directionDeviceToHost rt) s = .next { s with ret := .direction .deviceToHost })) ∧
  (∀ s : State,
      (∀ x ∈ [(Instr.requestGetStatus, Request.getStatus), (.requestClearFeature, .clearFeature),
          (.requestReserved2, .reserved 2), (.requestSetFeature, .setFeature), (.requestReserved4, .reserved 4),
          (.requestSetAddress, .setAddress), (.requestGetDescriptor, .getDescriptor),
          (.requestSetDescriptor, .setDescriptor), (.requestGetConfiguration, .getConfiguration),
          (.requestSetConfiguration, .setConfiguration), (.requestGetInterface, .getInterface),
          (.requestSetInterface, .setInterface), (.requestSynchronizeFrame, .synchronizeFrame),
          (.requestClassOrVendor13, .classOrVendor 13)],
        exec x.1 s = .next { s with ret := .request x.2 }) ∧
      (∀ rq : Byte,
        (14 ≤ rq.toNat → rq.toNat ≤ 15 →
          exec (.requestClassOrVendor14To15 rq) s = .next { s with ret := .request (.classOrVendor rq) }) ∧
        (16 ≤ rq.toNat → rq.toNat ≤ 31 →
          exec (.requestClassOrVendor16To31 rq) s = .next { s with ret := .request (.classOrVendor rq) }) ∧
        (32 ≤ rq.toNat → rq.toNat ≤ 63 →
          exec (.requestClassOrVendor32To63 rq) s = .next { s with ret := .request (.classOrVendor rq) }) ∧
        (64 ≤ rq.toNat → rq.toNat ≤ 127 →
          exec (.requestClassOrVendor64To127 rq) s = .next { s with ret := .request (.classOrVendor rq) }) ∧
        (128 ≤ rq.toNat →
          exec (.requestClassOrVendor128To255 rq) s = .next { s with ret := .request (.classOrVendor rq) })))

/-- The rows of feature selectors, endpoint addresses, device addresses, the priority encoder, event tags and speed codes
answer the value their rule gives (log 5). -/
def Obligations.OtherConstantRows : Prop :=
  ∀ s : State,
    exec .featureEndpointHalt s = .next { s with ret := .feature .endpointHalt } ∧
    exec .featureDeviceRemoteWakeup s = .next { s with ret := .feature .deviceRemoteWakeup } ∧
    (∀ ea : Byte, ea.toNat < 128 → exec (.epaddrOut ea) s = .next { s with ret := .epAddr .out (ea.extractLsb' 0 4) }) ∧
    (∀ ea : Byte, 128 ≤ ea.toNat → exec (.epaddrIn ea) s = .next { s with ret := .epAddr .inp (ea.extractLsb' 0 4) }) ∧
    (∀ v : Half, v.toNat ≤ 127 →
      exec (.devAddrValid v) s = .next { s with ret := .devAddr (some (v.extractLsb' 0 7)) }) ∧
    (∀ v : BitVec 4,
      (v.toNat % 2 = 1 → exec (.pend4BusReset v) s = .next { s with ret := .irqHandler .busReset }) ∧
      (v.toNat % 4 = 2 → exec (.pend4ReceiveControl v) s = .next { s with ret := .irqHandler .receiveControl }) ∧
      (v.toNat % 8 = 4 → exec (.pend4ReceivePacket v) s = .next { s with ret := .irqHandler .receivePacket }) ∧
      (v.toNat = 8 → exec (.pend4SendComplete v) s = .next { s with ret := .irqHandler .sendComplete }) ∧
      (v.toNat = 0 → exec (.pend4None v) s = .next { s with ret := .irqHandler .unknown })) ∧
    exec .eventBusReset s = .next { s with ret := .eventTag .busReset } ∧
    exec .eventReceiveControl s = .next { s with ret := .eventTag .receiveControl } ∧
    exec .eventReceivePacket s = .next { s with ret := .eventTag .receivePacket } ∧
    exec .eventSendComplete s = .next { s with ret := .eventTag .sendComplete } ∧
    exec .eventUnknownInterrupt s = .next { s with ret := .eventTag .unknownInterrupt } ∧
    exec .eventError s = .next { s with ret := .eventTag .error } ∧
    exec .speedHigh s = .next { s with ret := .speed .high } ∧
    exec .speedFull s = .next { s with ret := .speed .full } ∧
    exec .speedLow s = .next { s with ret := .speed .low } ∧
    exec .speedSuperspeed s = .next { s with ret := .speed .superSpeed }

/-! ## Steps, power-on, boot -/

/-- A step performs the instruction that the next stimulus decodes to, after taking the stimulus off the schedule; a
stimulus that does not decode stops the machine; with no stimulus left the interrupt agent goes first if it can step
(the schedule as data is the model's choice, logs 1, 21, 30). -/
def Obligations.StepRunsDecodedInstruction : Prop :=
  (∀ (s : State) (u : Stimulus) (rest : List Stimulus) (i : Instr) (r : List Byte),
    s.stream = u :: rest → decode u.view u.bytes = .ok (i, r) → step s = exec i { s with stream := rest }) ∧
  (∀ (s : State) (u : Stimulus) (rest : List Stimulus) (e : DecodeError),
    s.stream = u :: rest → decode u.view u.bytes = .error e → step s = .fault (.noSuchStimulus e)) ∧
  (∀ s : State, s.stream = [] → (s.irq ≠ [] ∨ irqEnabled s = true) → step s = exec .irqEntry s) ∧
  (∀ s : State, s.stream = [] → s.irq = [] → irqEnabled s = false → step s = exec .mainStep s) ∧
  (∀ (s : State) (n w : Nat) (i : Instr), decodeTableWord n w = some i → step (s.withFetchWord n w) = exec i s)

/-- The power-on values of the state's fields that the power-on column gives (10_state.md R42, 70_reset_and_hazards.md
R291), for a machine with any parameters (R6) and as many ports as they say; `HW[p].speed` is free. The reset state is that of
the default parameters. -/
def Obligations.PowerOnState : Prop :=
  (∀ c : Params,
    (State.powerOn c).hw.length = c.nports ∧ (State.powerOn c).sw.length = c.nports ∧
    (∀ p : Port, p < c.nports → ∃ sp : Speed, hwOf (State.powerOn c) p =
      { ie := ⟨false, false, false, false⟩, pend := ⟨false, false, false, false⟩, connect := false, speed := sp,
        epcFifo := [], epcEpno := 0, epcAddress := 0, inFifo := [], inEpno := 0, inFlight := false, outFifo := [],
        outEpno := 0, outAddress := 0, stallIn := Vector.replicate 16 false, stallOut := Vector.replicate 16 false,
        pidIn := Vector.replicate 16 false, pidOut := Vector.replicate 16 false,
        outPrimed := Vector.replicate 16 false }) ∧
    (∀ p : Port, p < c.nports → swOf (State.powerOn c) p =
      { x := ⟨0, 0, 0, 0, 0, 0, 0, 0⟩, cp := .idle, address := 0, speed := .high, pendingTxAck := false,
        deferredAddress := none, configValue := 0, remoteWakeup := false, rxBuf := [], rxTotal := 0, ctrSetupDropped := 0,
        ctrReadOverflow := 0, ctrWriteReset := 0, ctrWriteOverflow := 0, ctrUnexpected := 0, ctrWaitExpired := 0 }) ∧
    (State.powerOn c).g = { evq := [], fatal := false, obs := [], ctrUnknownIrq := 0, ctrError := 0 } ∧
    irqLine (State.powerOn c) = false ∧ (State.powerOn c).irq = []) ∧
  State.reset = State.powerOn Params.default ∧ Params.default.nports = 2 ∧ Params.default.nep = 16

/-- The boot sequence of R296. From power-on the first turn of the main agent performs it on every port, in the order of the
ports, and leaves a quiescent machine (R297) with every source enabled, the lines up and SW's speed the one CONNECT reported.
An application performs it again when a port is reconnected (that it is APP's idle work that does so is the model's choice, log
13): it empties the FIFOs, clears the addresses and the pending bits before it enables the sources, and sets SW's speed. -/
def Obligations.BootReachesQuiescentState : Prop :=
  (∀ c : Params, 1 ≤ c.nports → 14 * c.nports ≤ Config.turnSteps →
    ∃ t : State, exec .mainStep (State.powerOn c) = .next t ∧ t.main = [] ∧ Quiescent t ∧
      (∀ p : Port, p < c.nports → (∀ src : Source, srcBit (hwOf t p).ie src = true) ∧ (hwOf t p).connect = true ∧
        (hwOf t p).epcAddress = 0 ∧ (hwOf t p).outAddress = 0 ∧ (swOf t p).speed = (hwOf t p).speed) ∧
      t.g.obs = (List.range c.nports).flatMap fun p =>
        [.fifoReset p .epc, .fifoReset p .inp, .fifoReset p .out, .addrWrite p 0, .connect p]) ∧
  (∀ (p : Port) (s : State), Undisturbed p s 15 → s.main = [] → s.g.evq = [] → s.cfg.app.idle = [(p, .reconnect)] →
    ∃ (t : State) (sp : Speed), exec .mainStep s = .next t ∧
      (∀ q : Port, q ≠ p → hwOf t q = hwOf s q ∧ swOf t q = swOf s q) ∧
      hwOf t p = { hwOf s p with
        ie := ⟨true, true, true, true⟩, pend := ⟨false, false, false, false⟩, connect := true, speed := sp, epcFifo := [],
        epcAddress := 0, inFifo := [], inFlight := false, outFifo := [], outAddress := 0,
        outPrimed := Vector.replicate 16 false } ∧
      swOf t p = { swOf s p with speed := sp } ∧
      t = { s with hw := t.hw, sw := t.sw, ret := .nothing, draws := t.draws, g := { s.g with obs := s.g.obs ++
        [.fifoReset p .epc, .fifoReset p .inp, .fifoReset p .out, .addrWrite p 0, .connect p] } })

/-! ## Invariants -/

/-- At power-on every invariant holds, whatever the parameters; the defaults of R6 are legal. -/
def Obligations.InvariantsAtPowerOn : Prop :=
  (∀ c : Params, c.Legal → Inv (State.powerOn c)) ∧ Params.default.Legal ∧
  (∀ c : Params, PipeInv (State.powerOn c) ∧ PipeInvWork (State.powerOn c) ∧ Contexts (State.powerOn c))

/-- R41 (a) to (c): the two address registers of a port never differ, no FIFO holds more than its depth, the queue no more
than its capacity: whatever state a step starts from, whatever work is suspended in it. With them, that the state has
NPORTS ports and that the parameters are legal (R6). -/
def Obligations.InvKeptByStep : Prop := ∀ s t : State, Inv s → step s = .next t → Inv t

/-- R41 (d) to (f), in every state: a turn of any agent keeps `PipeInvWork`, which speaks of the work that is suspended in the
main context too, so a handler run may be spread over any number of turns; between two iterations of the main loop, where an
event is popped, it is R41 (d) to (f) themselves (for (d), as the model reads it, log 37). -/
def Obligations.PipeInvKeptByEveryTurn : Prop :=
  (∀ (i : Instr) (s t : State), i = .mainStep ∨ agentOf i = .bus ∨ agentOf i = .interrupt → Contexts s → PipeInvWork s →
    exec i s = .next t → PipeInvWork t) ∧
  (∀ s : State, s.main = [] → (PipeInvWork s ↔ PipeInv s))

/-- R64: each context only ever holds work of its own. -/
def Obligations.ContextsKeptByStep : Prop := ∀ s t : State, Contexts s → step s = .next t → Contexts t

/-! ## Agents -/

/-- With the fatal latch set, no operation of the interrupt agent or of the main agent does anything (R261); while the
dispatcher is in the middle of a run, none of the main agent does (R62). That such an instruction leaves everything but
`ret` is log 16. -/
def Obligations.HaltedAndSuspendedContexts : Prop :=
  (∀ (i : Instr) (s : State), PortPresent (portOf i) s → s.g.fatal = true → agentOf i = .interrupt ∨ agentOf i = .main →
      exec i s = .next { s with ret := .disabled }) ∧
  (∀ (i : Instr) (s : State), PortPresent (portOf i) s → s.irq ≠ [] → agentOf i = .main →
      exec i s = .next { s with ret := .disabled })

/-- A run of the dispatcher cut in two by the end of a turn is the same run: between the two turns only the bus agent can
have moved (R62; the turn length is log 2). -/
def Obligations.DispatcherRunMayBeCut : Prop :=
  ∀ (s u v : State) (n m : Nat), Contexts s →
    exec .irqEntry { s with quantum := some n } = .next u → u.irq ≠ [] → u.g.fatal = false →
    exec .irqEntry { s with quantum := some (n + m) } = .next v →
    exec .irqEntry { u with quantum := some m } = .next { v with quantum := some m }

/-- A move of the bus agent writes HW, at most one entry of the trace, and nothing of SW, of the queue, of the latch or of
the counters, and it is not stopped by the fatal latch. -/
def Obligations.BusMovesWriteHwOnly : Prop :=
  ∀ (i : Instr) (s : State), agentOf i = .bus → PortPresent (portOf i) s →
    ∃ t : State, exec i s = .next t ∧ ∃ l : List Obs, l.length ≤ 1 ∧
    t = { s with hw := t.hw, g := { s.g with obs := s.g.obs ++ l }, spurious := t.spurious, ret := t.ret }

/-- An operation that names a port leaves every other port as it is; one that names a port outside 0..NPORTS-1 stops the machine
(the stop is the model's choice, log 34), and nothing else does: every other instruction answers a next state. -/
def Obligations.OtherPortsUntouched : Prop :=
  (∀ (i : Instr) (s t : State) (p : Port), portOf i = some p → exec i s = .next t →
    ∀ q : Port, q ≠ p → hwOf t q = hwOf s q ∧ swOf t q = swOf s q) ∧
  (∀ (i : Instr) (s : State) (p : Port), portOf i = some p → portExists p s = false → exec i s = .fault (.noSuchPort p)) ∧
  (∀ (i : Instr) (s : State), PortPresent (portOf i) s → ∃ t : State, exec i s = .next t)

/-- No instruction changes a parameter; the trace only grows; the fatal latch is never cleared; the counters never fall. -/
def Obligations.ParametersFixedTraceGrows : Prop :=
  ∀ (i : Instr) (s t : State), exec i s = .next t →
    t.cfg = s.cfg ∧ s.g.obs <+: t.g.obs ∧ (s.g.fatal = true → t.g.fatal = true) ∧
    s.g.ctrUnknownIrq ≤ t.g.ctrUnknownIrq ∧ s.g.ctrError ≤ t.g.ctrError ∧
    ∀ p : Port,
      (swOf s p).ctrSetupDropped ≤ (swOf t p).ctrSetupDropped ∧ (swOf s p).ctrReadOverflow ≤ (swOf t p).ctrReadOverflow ∧
      (swOf s p).ctrWriteReset ≤ (swOf t p).ctrWriteReset ∧ (swOf s p).ctrWriteOverflow ≤ (swOf t p).ctrWriteOverflow ∧
      (swOf s p).ctrUnexpected ≤ (swOf t p).ctrUnexpected ∧ (swOf s p).ctrWaitExpired ≤ (swOf t p).ctrWaitExpired

/-- What the two contexts share (R64): the interrupt context only appends to the queue, only clears pending_tx_ack, and
writes of HW nothing but enables, pending bits and what a FIFO reset empties; the main context only removes from the
queue. -/
def Obligations.ContextsShareQueueAndFlag : Prop :=
  ∀ (i : Instr) (s t : State), Contexts s → exec i s = .next t →
    (agentOf i = .interrupt →
      s.g.evq <+: t.g.evq ∧ t.main = s.main ∧
      ∀ p : Port,
        (∃ b : Bool, swOf t p = { swOf s p with pendingTxAck := b } ∧ (b = true → (swOf s p).pendingTxAck = true)) ∧
        hwOf t p = { hwOf s p with
          ie := (hwOf t p).ie, pend := (hwOf t p).pend, epcFifo := (hwOf t p).epcFifo, inFifo := (hwOf t p).inFifo,
          inFlight := (hwOf t p).inFlight, outFifo := (hwOf t p).outFifo, outPrimed := (hwOf t p).outPrimed } ∧
        ((hwOf t p).epcFifo = (hwOf s p).epcFifo ∨ (hwOf t p).epcFifo = []) ∧
        ((hwOf t p).inFifo = (hwOf s p).inFifo ∨ (hwOf t p).inFifo = []) ∧
        ((hwOf t p).outFifo = (hwOf s p).outFifo ∨ (hwOf t p).outFifo = [])) ∧
    (agentOf i = .main → t.g.fatal = s.g.fatal ∧ t.irq = s.irq ∧ ∃ n : Nat, t.g.evq = s.g.evq.drop n)

/-- A main-loop iteration writes a non-zero address to the address registers only while it handles the SendComplete(p, 0)
event of a deferred address in StatusIn, with the flag clear (R214, R215), provided neither a hook nor APP takes an
address into its own hands (R300). -/
def Obligations.AddressWrittenOnSendCompleteOnly : Prop :=
  ∀ (s t : State) (l : List Obs) (p : Port) (a : DevAddr),
    s.main = [] → s.cfg.hooks = ⟨none, none, none⟩ → noSetAddress (s.cfg.app.idle.map (·.2)) = true →
    (∀ x ∈ s.cfg.app.onEvent, noSetAddress x.2 = true) →
    exec .mainStep s = .next t → t.g.obs = s.g.obs ++ l → Obs.addrWrite p a ∈ l → a ≠ 0 →
    evqHead s = some (.sendComplete p 0) ∧ (swOf s p).cp = .statusIn ∧ (swOf s p).deferredAddress = some a ∧
      (swOf s p).pendingTxAck = false

/-! ## The register layer (42_register_ops.md) -/

/-- ENABLE_INTERRUPT, DISABLE_INTERRUPT, CLEAR_PENDING and IS_PENDING: the bit named and nothing else; enabling a pending
source raises the line at once. -/
def Obligations.InterruptBitOperations : Prop :=
  ∀ (p : Port) (src : Source) (s : State), Ready p s →
    (∃ t : State, exec (.enableInterrupt p src) s = .next t ∧ HwStep p s t [] .nothing ∧
      hwOf t p = { hwOf s p with ie := (hwOf t p).ie } ∧ srcBit (hwOf t p).ie src = true ∧
      (∀ o : Source, o ≠ src → srcBit (hwOf t p).ie o = srcBit (hwOf s p).ie o) ∧
      (srcBit (hwOf s p).pend src = true → irqLine t = true)) ∧
    (∃ t : State, exec (.disableInterrupt p src) s = .next t ∧ HwStep p s t [] .nothing ∧
      hwOf t p = { hwOf s p with ie := (hwOf t p).ie } ∧ srcBit (hwOf t p).ie src = false ∧
      (∀ o : Source, o ≠ src → srcBit (hwOf t p).ie o = srcBit (hwOf s p).ie o)) ∧
    (∃ t : State, exec (.clearPending p src) s = .next t ∧ HwStep p s t [] .nothing ∧
      hwOf t p = { hwOf s p with pend := (hwOf t p).pend } ∧ srcBit (hwOf t p).pend src = false ∧
      (∀ o : Source, o ≠ src → srcBit (hwOf t p).pend o = srcBit (hwOf s p).pend o)) ∧
    exec (.isPending p src) s = .next { s with ret := .bool (srcBit (hwOf s p).pend src) }

/-- CONNECT and CTL_SPEED. -/
def Obligations.ConnectAndSpeed : Prop :=
  ∀ (p : Port) (s : State), Ready p s →
    (∀ (sp : Speed) (c : Nat), (sp, c) ∈ [(Speed.high, 0), (.full, 1), (.low, 2), (.superSpeed, 3)] →
      ∃ t : State, exec (.connect p sp) s = .next t ∧ HwStep p s t [.connect p] (.code c) ∧
        hwOf t p = { hwOf s p with connect := true, speed := sp }) ∧
    exec (.ctlSpeed p) s = .next { s with ret := .speed (hwOf s p).speed }

/-- DISCONNECT: its eight steps leave the four enables clear, the three FIFOs reset and the line down; the trace shows the
resets before the drop; the first four steps clear the enables one by one, after seven the line is still up; afterwards no
move of the bus agent is enabled on the port. -/
def Obligations.DisconnectSequence : Prop :=
  ∀ (p : Port) (s : State), Ready p s →
    (8 ≤ turnLength s → ∃ t : State, exec (.disconnect p) s = .next t ∧
      HwStep p s t [.fifoReset p .epc, .fifoReset p .inp, .fifoReset p .out, .disconnect p] .nothing ∧
      hwOf t p = { hwOf s p with
        ie := ⟨false, false, false, false⟩, epcFifo := [], inFifo := [], inFlight := false, outFifo := [],
        outPrimed := Vector.replicate 16 false, connect := false } ∧
      (∀ (a : DevAddr) (e : EpNo) (d : Dir), hostBusResetGuard p t = false ∧ hostSetupGuard p a t = false ∧
        hostOutGuard p a e t = false ∧ hostInGuard p a e t = false ∧ hostSeesStallGuard p a d e t = false)) ∧
    (∀ k : Nat, k ≤ 4 → ∃ t : State, exec (.disconnect p) { s with quantum := some k } = .next t ∧ t.main ≠ [] ∧ t.g = s.g ∧
      hwOf t p = { hwOf s p with ie := ⟨decide (k < 1) && (hwOf s p).ie.ctl, decide (k < 2) && (hwOf s p).ie.epc,
        decide (k < 3) && (hwOf s p).ie.out, decide (k < 4) && (hwOf s p).ie.inp⟩ }) ∧
    (∃ t : State, exec (.disconnect p) { s with quantum := some 7 } = .next t ∧ t.main ≠ [] ∧
      t.g.obs = s.g.obs ++ [.fifoReset p .epc, .fifoReset p .inp, .fifoReset p .out] ∧
      (hwOf t p).connect = (hwOf s p).connect)

/-- RESET_FIFO of each group; SET_ADDRESS writes both address registers in one step, and no other register, and from then on
host moves are matched against the new address. -/
def Obligations.FifoResetAndAddress : Prop :=
  (∀ (p : Port) (s : State), Ready p s →
      (∃ t : State, exec (.resetFifo p .epc) s = .next t ∧ HwStep p s t [.fifoReset p .epc] .nothing ∧
        hwOf t p = { hwOf s p with epcFifo := [] }) ∧
      (∃ t : State, exec (.resetFifo p .inp) s = .next t ∧ HwStep p s t [.fifoReset p .inp] .nothing ∧
        hwOf t p = { hwOf s p with inFifo := [], inFlight := false }) ∧
      (∃ t : State, exec (.resetFifo p .out) s = .next t ∧ HwStep p s t [.fifoReset p .out] .nothing ∧
        hwOf t p = { hwOf s p with outFifo := [], outPrimed := (hwOf t p).outPrimed } ∧
        ∀ e : EpNo, epBit (hwOf t p).outPrimed e = false)) ∧
  (∀ (p : Port) (a : DevAddr) (s : State), Ready p s →
      ∃ t : State, exec (.setAddress p a) s = .next t ∧ HwStep p s t [.addrWrite p a] .nothing ∧
        hwOf t p = { hwOf s p with epcAddress := a, outAddress := a } ∧
        (∀ a' : DevAddr, hostSetupGuard p a' t = true ↔ (hwOf s p).connect = true ∧ a' = a) ∧
        (∀ (a' : DevAddr) (d : Dir) (e : EpNo), (hostOutGuard p a' e t = true ∨ hostInGuard p a' e t = true ∨
          hostSeesStallGuard p a' d e t = true) → a' = a))

/-- STALL_IN, STALL_OUT, UNSTALL_IN, UNSTALL_OUT, IS_STALLED: one stall bit, and what the host meets while it is set.
CLEAR_HALT: the toggle bit of the endpoint address is 0 afterwards, whatever its value was. The stall clause, through
`epWrite`, also says that a bit beyond NEP stays 0, which is the model's choice (log 35). -/
def Obligations.StallAndHaltBits : Prop :=
  (∀ (p : Port) (e : EpNo) (s : State), Ready p s →
      (∀ x ∈ [(Instr.stallIn p e, Dir.inp, true), (.stallOut p e, .out, true), (.unstallIn p e, .inp, false),
          (.unstallOut p e, .out, false)],
        ∃ t : State, exec x.1 s = .next t ∧
          HwStep p s t [if x.2.2 = true then .stallSet p x.2.1 e else .stallClr p x.2.1 e] .nothing ∧
          hwOf t p = { hwOf s p with stallIn := (hwOf t p).stallIn, stallOut := (hwOf t p).stallOut } ∧
          (∀ (d : Dir) (e' : EpNo), stallBit (hwOf t p) d e'
            = if d = x.2.1 ∧ e' = e then epWrite s.cfg e x.2.2 else stallBit (hwOf s p) d e') ∧
          (x.2.2 = true → e.toNat < s.cfg.nep → ∀ a : DevAddr,
            (x.2.1 = .inp → hostInGuard p a e t = false) ∧ (x.2.1 = .out → hostOutGuard p a e t = false))) ∧
      (∀ d : Dir, exec (.isStalled p d e) s = .next { s with ret := .bool (stallBit (hwOf s p) d e) })) ∧
  (∀ (p : Port) (ea : Byte) (s : State), Ready p s →
      ∃ (t : State) (d : Dir) (n : EpNo), (d = .inp ↔ 128 ≤ ea.toNat) ∧ n.toNat = ea.toNat % 16 ∧
        exec (.clearHalt p ea) s = .next t ∧ HwStep p s t [.haltClr p d n] .nothing ∧
        hwOf t p = { hwOf s p with pidIn := (hwOf t p).pidIn, pidOut := (hwOf t p).pidOut } ∧
        ∀ (d' : Dir) (e : EpNo), pidBit (hwOf t p) d' e = if d' = d ∧ e = n then false else pidBit (hwOf s p) d' e)

/-- The reads of the OUT and the control FIFO: queries, endpoint numbers, and pops; a pop of an empty FIFO returns some
byte and leaves it empty. -/
def Obligations.FifoReads : Prop :=
  ∀ (p : Port) (s : State), Ready p s →
    exec (.outHasData p) s = .next { s with ret := .bool (decide (0 < (hwOf s p).outFifo.length)) } ∧
    exec (.ctrlHasData p) s = .next { s with ret := .bool (decide (0 < (hwOf s p).epcFifo.length)) } ∧
    exec (.ctrlEpno p) s = .next { s with ret := .epno (hwOf s p).epcEpno } ∧
    exec (.outEpno p) s = .next { s with ret := .epno (hwOf s p).outEpno } ∧
    (∃ (t : State) (b : Byte), exec (.outPopByte p) s = .next t ∧
      (∀ (c : Byte) (rest : List Byte), (hwOf s p).outFifo = c :: rest → b = c ∧ HwStep p s t [] (.byte b) ∧
        hwOf t p = { hwOf s p with outFifo := rest }) ∧
      ((hwOf s p).outFifo = [] → t = { s with ret := .byte b, draws := t.draws })) ∧
    (∃ (t : State) (b : Byte), exec (.ctrlPopByte p) s = .next t ∧
      (∀ (c : Byte) (rest : List Byte), (hwOf s p).epcFifo = c :: rest → b = c ∧ HwStep p s t [] (.byte b) ∧
        hwOf t p = { hwOf s p with epcFifo := rest }) ∧
      ((hwOf s p).epcFifo = [] → t = { s with ret := .byte b, draws := t.draws }))

/-- OUT_PRIME, IN_PUSH_BYTE (a byte too many is dropped and counted), IN_COMMIT, and the pure reads IN_IS_IDLE, IN_HAS_DATA
and IN_EPNO. That a push and a commit do the same while a packet is in flight, where U3 asks that nothing be proved, is the
model's reading (log 24); that the prime bit of an endpoint beyond NEP stays 0 (`epWrite`) is its choice (log 35). -/
def Obligations.InAndOutWrites : Prop :=
  (∀ (p : Port) (s : State), Ready p s →
      (∀ e : EpNo, ∃ t : State, exec (.outPrime p e) s = .next t ∧ HwStep p s t [.outPrime p e] .nothing ∧
        hwOf t p = { hwOf s p with outPrimed := (hwOf t p).outPrimed } ∧
        ∀ e' : EpNo, epBit (hwOf t p).outPrimed e' = if e' = e then epWrite s.cfg e true else epBit (hwOf s p).outPrimed e') ∧
      (∀ b : Byte, (hwOf s p).inFifo.length < s.cfg.inFifoDepth →
        ∃ t : State, exec (.inPushByte p b) s = .next t ∧ HwStep p s t [] .nothing ∧
          hwOf t p = { hwOf s p with inFifo := (hwOf s p).inFifo ++ [b] }) ∧
      (∀ b : Byte, s.cfg.inFifoDepth ≤ (hwOf s p).inFifo.length →
        ∃ t : State, exec (.inPushByte p b) s = .next t ∧ t = { s with sw := t.sw, ret := .nothing } ∧
          ∀ q : Port, swOf t q = if q = p then { swOf s p with ctrWriteOverflow := (swOf s p).ctrWriteOverflow + 1 }
            else swOf s q) ∧
      (∀ e : EpNo, ∃ t : State, exec (.inCommit p e) s = .next t ∧
        HwStep p s t [.inCommit p e (hwOf s p).inFifo.length] .nothing ∧
        hwOf t p = { hwOf s p with inEpno := e, inFlight := true })) ∧
  (∀ (p : Port) (s : State), Ready p s →
      exec (.inIsIdle p) s = .next { s with ret := .bool (!(hwOf s p).inFlight) } ∧
      exec (.inHasData p) s = .next { s with ret := .bool (decide (0 < (hwOf s p).inFifo.length)) } ∧
      exec (.inEpno p) s = .next { s with ret := .epno (hwOf s p).inEpno })

/-! ## The bus agent (42_register_ops.md section 7) -/

/-- HOST_BUS_RESET, HOST_SETUP, HOST_OUT_PACKET and HOST_IN_TAKE, each under its guard. The toggle clauses of the last two,
through `epWrite`, also say that a toggle beyond NEP stays 0, which is the model's choice (log 35). -/
def Obligations.HostMoves : Prop :=
  ((∀ (p : Port) (sp : Speed) (s : State), portExists p s = true → (hwOf s p).connect = true →
      ∃ t : State, exec (.hostBusReset p sp) s = .next t ∧ HwStep p s t [.busReset p] .nothing ∧
        hwOf t p = { hwOf s p with pend := { (hwOf s p).pend with ctl := true }, speed := sp }) ∧
    (∀ (p : Port) (a : DevAddr) (e : EpNo) (bytes : List Byte) (s : State),
      portExists p s = true → (hwOf s p).connect = true → a = (hwOf s p).epcAddress →
      ∃ t : State, exec (.hostSetup p a e bytes) s = .next t ∧ HwStep p s t [.setup p e bytes] .nothing ∧
        hwOf t p = { hwOf s p with
          epcFifo := (hwOf s p).epcFifo ++ bytes.take (s.cfg.ctrlFifoDepth - (hwOf s p).epcFifo.length), epcEpno := e,
          pend := { (hwOf s p).pend with epc := true }, stallIn := (hwOf t p).stallIn, stallOut := (hwOf t p).stallOut } ∧
        ∀ (d : Dir) (e' : EpNo), stallBit (hwOf t p) d e' = if e = 0 ∧ e' = 0 then false else stallBit (hwOf s p) d e')) ∧
  ((∀ (p : Port) (a : DevAddr) (e : EpNo) (bytes : List Byte) (s : State),
      portExists p s = true → (hwOf s p).connect = true → a = (hwOf s p).outAddress → epBit (hwOf s p).outPrimed e = true →
      stallBit (hwOf s p) .out e = false →
      ∃ t : State, exec (.hostOutPacket p a e bytes) s = .next t ∧ HwStep p s t [.outPacket p e bytes] .nothing ∧
        hwOf t p = { hwOf s p with
          outFifo := (hwOf s p).outFifo ++ bytes.take (s.cfg.outFifoDepth - (hwOf s p).outFifo.length), outEpno := e,
          pend := { (hwOf s p).pend with out := true }, outPrimed := (hwOf t p).outPrimed, pidOut := (hwOf t p).pidOut } ∧
        (∀ e' : EpNo, epBit (hwOf t p).outPrimed e' = if e' = e then false else epBit (hwOf s p).outPrimed e') ∧
        ∀ e' : EpNo, pidBit (hwOf t p) .out e'
          = if e' = e then epWrite s.cfg e (!pidBit (hwOf s p) .out e) else pidBit (hwOf s p) .out e') ∧
    (∀ (p : Port) (a : DevAddr) (e : EpNo) (s : State),
      portExists p s = true → (hwOf s p).connect = true → a = (hwOf s p).epcAddress →
      (hwOf s p).inFlight = true → (hwOf s p).inEpno = e → stallBit (hwOf s p) .inp e = false →
      ∃ t : State, exec (.hostInTake p a e) s = .next t ∧ HwStep p s t [.inPacket p e (hwOf s p).inFifo] .nothing ∧
        hwOf t p = { hwOf s p with
          inFifo := [], inFlight := false, pend := { (hwOf s p).pend with inp := true }, pidIn := (hwOf t p).pidIn } ∧
        ∀ e' : EpNo, pidBit (hwOf t p) .inp e'
          = if e' = e then epWrite s.cfg e (!pidBit (hwOf s p) .inp e) else pidBit (hwOf s p) .inp e'))

/-- HOST_SEES_STALL, under its guard: an entry of the trace only. SPURIOUS_IRQ: no state of the block changes, and the
interrupt agent is enabled although the line is low (the field that remembers it is the model's, log 14). -/
def Obligations.HostStallAndSpurious : Prop :=
  (∀ (p : Port) (a : DevAddr) (d : Dir) (e : EpNo) (s : State), portExists p s = true →
    (hwOf s p).connect = true → (d = .inp → a = (hwOf s p).epcAddress) → (d = .out → a = (hwOf s p).outAddress) →
    stallBit (hwOf s p) d e = true →
    exec (.hostSeesStall p a d e) s
      = .next { s with g := { s.g with obs := s.g.obs ++ [.hostStall p d e] }, ret := .nothing }) ∧
  (∀ (extra : Nat) (s : State), ∃ t : State, exec (.spuriousIrq extra) s = .next t ∧
    t = { s with spurious := some extra, ret := .nothing } ∧ (s.g.fatal = false → irqEnabled t = true))

/-- A host action whose guard does not hold, in any of its conjuncts, has no effect on the state and is not recorded (`ret`
says so, log 15). -/
def Obligations.UnmetGuardNoEffect : Prop :=
  ∀ (p : Port) (a : DevAddr) (e : EpNo) (s : State), portExists p s = true →
    ((hwOf s p).connect = false →
      (∀ sp : Speed, exec (.hostBusReset p sp) s = .next { s with ret := .disabled }) ∧
      (∀ bytes : List Byte, exec (.hostSetup p a e bytes) s = .next { s with ret := .disabled }) ∧
      (∀ bytes : List Byte, exec (.hostOutPacket p a e bytes) s = .next { s with ret := .disabled }) ∧
      exec (.hostInTake p a e) s = .next { s with ret := .disabled } ∧
      (∀ d : Dir, exec (.hostSeesStall p a d e) s = .next { s with ret := .disabled })) ∧
    (a ≠ (hwOf s p).epcAddress →
      (∀ bytes : List Byte, exec (.hostSetup p a e bytes) s = .next { s with ret := .disabled }) ∧
      exec (.hostInTake p a e) s = .next { s with ret := .disabled }) ∧
    ((a ≠ (hwOf s p).outAddress ∨ epBit (hwOf s p).outPrimed e = false ∨ stallBit (hwOf s p) .out e = true) →
      ∀ bytes : List Byte, exec (.hostOutPacket p a e bytes) s = .next { s with ret := .disabled }) ∧
    (((hwOf s p).inFlight = false ∨ (hwOf s p).inEpno ≠ e ∨ stallBit (hwOf s p) .inp e = true) →
      exec (.hostInTake p a e) s = .next { s with ret := .disabled }) ∧
    (a ≠ (hwOf s p).epcAddress → exec (.hostSeesStall p a .inp e) s = .next { s with ret := .disabled }) ∧
    (a ≠ (hwOf s p).outAddress → exec (.hostSeesStall p a .out e) s = .next { s with ret := .disabled }) ∧
    (∀ d : Dir, stallBit (hwOf s p) d e = false → exec (.hostSeesStall p a d e) s = .next { s with ret := .disabled })

/-! ## The dispatcher, the queue and the main loop (43_dispatcher_queue.md) -/

/-- One entry of the dispatcher serves the first pending source of the priority chain, whether it is enabled or not, and
pushes its one event; the other pending bits stay; with nothing pending it pushes UnknownInterrupt with the free bits
above the four of each port. That the entry uses up a SPURIOUS_IRQ, also where it finds a pending source, is the model's
choice (log 14). -/
def Obligations.EntryServesFirstPending : Prop :=
  ∀ s : State, irqEnabled s = true → s.irq = [] → 4 * s.hw.length + 16 ≤ turnLength s →
    s.g.evq.length < s.cfg.evqCapacity →
    (∀ (p : Port) (src : Source), FirstPending s p src → ∃ t : State, exec .irqEntry s = .next t ∧
      t.irq = [] ∧ t.main = s.main ∧ t.spurious = none ∧ t.g.fatal = false ∧ t.g.evq = s.g.evq ++ [sourceEvent s p src] ∧
      srcBit (hwOf t p).pend src = false ∧
      (∀ (q : Port) (o : Source), ¬(q = p ∧ o = src) → srcBit (hwOf t q).pend o = srcBit (hwOf s q).pend o) ∧
      (∀ q : Port, q ≠ p → hwOf t q = hwOf s q ∧ swOf t q = swOf s q)) ∧
    ((∀ (q : Port) (o : Source), srcBit (hwOf s q).pend o = false) →
      exec .irqEntry s = .next { s with
        spurious := none, ret := .nothing,
        g := { s.g with evq := s.g.evq ++ [.unknownInterrupt (s.spurious.getD 0 * 2 ^ (4 * s.hw.length))] } })

/-- IRQ_BUS_RESET: pending CTL cleared, the three FIFOs reset, CTL, EPC and IN enabled and OUT's enable untouched, then the
event pushed, or the machine halted if the queue is full; SW is not touched. -/
def Obligations.IrqBusReset : Prop :=
  ∀ (p : Port) (s : State), portExists p s = true → s.g.fatal = false → 12 ≤ turnLength s →
    ∃ t : State, exec (.irqBusReset p) s = .next t ∧
    (∀ q : Port, q ≠ p → hwOf t q = hwOf s q) ∧
    hwOf t p = { hwOf s p with
      pend := { (hwOf s p).pend with ctl := false },
      ie := { (hwOf s p).ie with ctl := true, epc := true, inp := true },
      epcFifo := [], inFifo := [], inFlight := false, outFifo := [], outPrimed := Vector.replicate 16 false } ∧
    t = { s with hw := t.hw, ret := .nothing, g := { s.g with
      evq := if s.g.evq.length = s.cfg.evqCapacity then s.g.evq else s.g.evq ++ [.busReset p],
      fatal := decide (s.g.evq.length = s.cfg.evqCapacity),
      obs := s.g.obs ++ [.fifoReset p .epc, .fifoReset p .inp, .fifoReset p .out] } }

/-- IRQ_RECEIVE_CONTROL, IRQ_RECEIVE_PACKET, IRQ_SEND_COMPLETE: the pending bit cleared, the flag cleared by the last
one whatever the endpoint, and the event with the endpoint number pushed, or the machine halted. -/
def Obligations.IrqEndpointHandlers : Prop :=
  ∀ (p : Port) (s : State), portExists p s = true → s.g.fatal = false → 5 ≤ turnLength s →
    (∃ t : State, exec (.irqReceiveControl p) s = .next t ∧ (∀ q : Port, q ≠ p → hwOf t q = hwOf s q) ∧
      hwOf t p = { hwOf s p with pend := { (hwOf s p).pend with epc := false } } ∧
      t = { s with hw := t.hw, ret := .nothing, g := { s.g with
        evq := if s.g.evq.length = s.cfg.evqCapacity then s.g.evq else s.g.evq ++ [.receiveControl p (hwOf s p).epcEpno],
        fatal := decide (s.g.evq.length = s.cfg.evqCapacity) } }) ∧
    (∃ t : State, exec (.irqReceivePacket p) s = .next t ∧ (∀ q : Port, q ≠ p → hwOf t q = hwOf s q) ∧
      hwOf t p = { hwOf s p with pend := { (hwOf s p).pend with out := false } } ∧
      t = { s with hw := t.hw, ret := .nothing, g := { s.g with
        evq := if s.g.evq.length = s.cfg.evqCapacity then s.g.evq else s.g.evq ++ [.receivePacket p (hwOf s p).outEpno],
        fatal := decide (s.g.evq.length = s.cfg.evqCapacity) } }) ∧
    (∃ t : State, exec (.irqSendComplete p) s = .next t ∧ (∀ q : Port, q ≠ p → hwOf t q = hwOf s q ∧ swOf t q = swOf s q) ∧
      hwOf t p = { hwOf s p with pend := { (hwOf s p).pend with inp := false } } ∧
      swOf t p = { swOf s p with pendingTxAck := false } ∧
      t = { s with hw := t.hw, sw := t.sw, ret := .nothing, g := { s.g with
        evq := if s.g.evq.length = s.cfg.evqCapacity then s.g.evq else s.g.evq ++ [.sendComplete p (hwOf s p).inEpno],
        fatal := decide (s.g.evq.length = s.cfg.evqCapacity) } })

/-- IRQ_UNKNOWN pushes the raw pending bitmap: bit 4p + s is the pending bit of source s of port p, the free bits stand
above them. -/
def Obligations.IrqUnknownBitmap : Prop :=
  ∀ (extra : Nat) (s : State), s.g.fatal = false → 2 ≤ turnLength s → s.g.evq.length < s.cfg.evqCapacity →
    ∃ raw : Nat, exec (.irqUnknown extra) s
        = .next { s with ret := .nothing, g := { s.g with evq := s.g.evq ++ [.unknownInterrupt raw] } } ∧
      (∀ (p : Port) (src : Source) (k : Nat), p < s.hw.length → (src, k) ∈ [(Source.ctl, 0), (.epc, 1), (.out, 2), (.inp, 3)] →
        raw.testBit (4 * p + k) = srcBit (hwOf s p).pend src) ∧
      raw / 2 ^ (4 * s.hw.length) = extra

/-- EVQ_PUSH: appended, or the fatal latch set and the event lost; EVQ_POP: the oldest event, or none. -/
def Obligations.QueueOperations : Prop :=
  (∀ (ev : Event) (s : State), PortPresent (eventPort ev) s → s.g.fatal = false →
      (s.g.evq.length ≠ s.cfg.evqCapacity →
        exec (.evqPush ev) s = .next { s with ret := .nothing, g := { s.g with evq := s.g.evq ++ [ev] } }) ∧
      (s.g.evq.length = s.cfg.evqCapacity →
        exec (.evqPush ev) s = .next { s with ret := .nothing, g := { s.g with fatal := true } })) ∧
  (∀ s : State, mainEnabled s = true →
      (s.g.evq = [] → exec .evqPop s = .next { s with ret := .event none }) ∧
      (∀ (ev : Event) (rest : List Event), s.g.evq = ev :: rest →
        exec .evqPop s = .next { s with ret := .event (some ev), g := { s.g with evq := rest } }))

/-- MAIN_STEP, between two iterations: it takes the oldest event. An event of endpoint 0 is handled by the engine, as by the
engine's instruction in a turn one step shorter (log 2); a bus reset by CTE_BUS_RESET, and then by APP; an event of another
endpoint by APP; with no event APP is idle. What APP does is its entry in the parameters (log 13): nothing where it has none. -/
def Obligations.MainStepRoutes : Prop :=
  ∀ (s : State), mainEnabled s = true → s.main = [] →
    (∀ (ev : Event) (rest : List Event) (i : Instr) (p : Port), s.g.evq = ev :: rest → portExists p s = true →
      ((ev = .busReset p ∧ i = .cteBusReset p ∧ appOnEvent s.cfg.app ev = []) ∨
       (ev = .receiveControl p 0 ∧ i = .cteReceiveControl p) ∨
       (ev = .receivePacket p 0 ∧ i = .cteReceivePacket p) ∨
       (ev = .sendComplete p 0 ∧ i = .cteSendComplete p) ∨
       (∃ e : EpNo, e ≠ 0 ∧ i = .cteDisconnect p ∧ appOnEvent s.cfg.app ev = [.cteDisconnect] ∧
         (ev = .receiveControl p e ∨ ev = .receivePacket p e ∨ ev = .sendComplete p e))) →
      Continues .mainStep i 1 s { s with g := { s.g with evq := rest } }) ∧
    (∀ (n : Nat) (ev : Event) (rest : List Event) (p : Port), turnLength s = n + 1 → s.g.evq = ev :: rest →
      (ev = .busReset p → exec .mainStep s
        = turnOf n (.cteBusReset p :: appTasks p (appOnEvent s.cfg.app ev)) { s with g := { s.g with evq := rest } }) ∧
      (∀ e : EpNo, e ≠ 0 → (ev = .receiveControl p e ∨ ev = .receivePacket p e ∨ ev = .sendComplete p e) →
        exec .mainStep s = turnOf n (appTasks p (appOnEvent s.cfg.app ev)) { s with g := { s.g with evq := rest } } ∧
        (appOnEvent s.cfg.app ev = [] →
          exec .mainStep s = .next { s with ret := .nothing, g := { s.g with evq := rest } }) ∧
        (∀ ops : List PortOp, appOnEvent s.cfg.app ev = ops.map .op → ops.all isOneStep = true → ops.length ≤ n →
          exec .mainStep s = .next (afterOps p ops { s with ret := .nothing, g := { s.g with evq := rest } })))) ∧
    (∀ n : Nat, turnLength s = n + 1 → s.g.evq = [] →
      exec .mainStep s = turnOf n (appIdleTasks s.cfg.app) s ∧
      (s.cfg.app.idle = [] → exec .mainStep s = .next { s with ret := .nothing }))

/-- The main loop counts UnknownInterrupt and Error events and changes nothing else. -/
def Obligations.UnknownAndErrorCounted : Prop :=
  ∀ (s : State) (rest : List Event), mainEnabled s = true → s.main = [] → 2 ≤ turnLength s →
    (∀ raw : Nat, s.g.evq = .unknownInterrupt raw :: rest →
      exec .mainStep s
        = .next { s with ret := .nothing, g := { s.g with evq := rest, ctrUnknownIrq := s.g.ctrUnknownIrq + 1 } }) ∧
    (s.g.evq = .error :: rest →
      exec .mainStep s = .next { s with ret := .nothing, g := { s.g with evq := rest, ctrError := s.g.ctrError + 1 } })

/-! ## The engine (44_control_engine.md) -/

/-- CTE_BUS_RESET and CTE_DISCONNECT: the whole state each leaves. -/
def Obligations.EngineResets : Prop :=
  (∀ (p : Port) (s : State), Undisturbed p s 12 → ∃ t : State, exec (.cteBusReset p) s = .next t ∧
      (∀ q : Port, q ≠ p → hwOf t q = hwOf s q ∧ swOf t q = swOf s q) ∧
      hwOf t p = { hwOf s p with epcAddress := 0, outAddress := 0 } ∧
      swOf t p = { swOf s p with
        cp := .idle, address := 0, deferredAddress := none, pendingTxAck := false, speed := (hwOf s p).speed,
        configValue := 0, remoteWakeup := false, rxBuf := [], rxTotal := 0 } ∧
      t = { s with hw := t.hw, sw := t.sw, ret := .nothing, g := { s.g with obs := s.g.obs ++ [.addrWrite p 0] } }) ∧
  (∀ (p : Port) (s : State), Undisturbed p s 18 → ∃ t : State, exec (.cteDisconnect p) s = .next t ∧
      (∀ q : Port, q ≠ p → hwOf t q = hwOf s q ∧ swOf t q = swOf s q) ∧
      hwOf t p = { hwOf s p with
        ie := ⟨false, false, false, false⟩, epcFifo := [], inFifo := [], inFlight := false, outFifo := [],
        outPrimed := Vector.replicate 16 false, connect := false, epcAddress := 0, outAddress := 0 } ∧
      swOf t p = { swOf s p with
        cp := .idle, address := 0, deferredAddress := none, pendingTxAck := false, configValue := 0, remoteWakeup := false,
        rxBuf := [], rxTotal := 0 } ∧
      t = { s with hw := t.hw, sw := t.sw, ret := .nothing, g := { s.g with obs := s.g.obs ++
        [.fifoReset p .epc, .fifoReset p .inp, .fifoReset p .out, .disconnect p, .addrWrite p 0] } })

/-- CTE_RECEIVE_CONTROL: fewer than eight bytes are dropped, counted and answered by nothing; eight or more are latched,
the excess counted, and dispatched. -/
def Obligations.EngineReceiveControl : Prop :=
  ∀ (p : Port) (s : State), Ready p s →
    ((hwOf s p).epcFifo.length < 8 → 2 * (hwOf s p).epcFifo.length + 9 ≤ turnLength s →
      exec (.cteReceiveControl p) s
        = .next (updSw p (fun u => { u with ctrSetupDropped := u.ctrSetupDropped + 1, cp := .idle })
            (afterSetupRead p s))) ∧
    (∀ (x : SetupBytes) (more : List Byte),
      (hwOf s p).epcFifo = [x.x0, x.x1, x.x2, x.x3, x.x4, x.x5, x.x6, x.x7] ++ more →
      Continues (.cteReceiveControl p) (.cteDispatch p) (2 * (hwOf s p).epcFifo.length + 8) s (afterSetupLatched p x s))

/-- CTE_DISPATCH does what the row of the latched packet does, for every packet: the type selects before the code. -/
def Obligations.DispatchSelectsRow : Prop :=
  ∀ (p : Port) (s : State), portExists p s = true → turnLength s ≠ 0 →
    ∃ t : State, exec (.cteDispatch p) s = .next t ∧
      exec (requestInstr (requestRow (latched s p)) p (latched s p)) s = .next t ∧
      (latched s p = ⟨0x40, 0xAB, 0, 0, 0⟩ → s.cfg.hooks.vendorHook = none → Undisturbed p s 6 →
        t = afterStall p (setRet .nothing s))

/-- ACK_STATUS_STAGE: the direction bit alone selects between priming endpoint 0 (StatusOut) and committing a zero-length
packet (StatusIn). STALL_CONTROL_REQUEST: both directions of endpoint 0 stalled, IN first, and Idle. DATA_OUT_BEGIN: the
receive buffer emptied, endpoint 0 primed, DataOut. -/
def Obligations.HandlerEndings : Prop :=
  (∀ (p : Port) (s : State), Undisturbed p s 7 →
      ((swOf s p).x.x0.getLsbD 7 = true →
        exec (.ackStatusStage p) s = .next (afterStatusOut p (setRet .nothing s))) ∧
      ((swOf s p).x.x0.getLsbD 7 = false →
        exec (.ackStatusStage p) s = .next (afterStatusIn p (setRet .nothing s)))) ∧
  (∀ (p : Port) (s : State), Undisturbed p s 4 → ∃ t : State, exec (.stallControlRequest p) s = .next t ∧
      (∀ q : Port, q ≠ p → hwOf t q = hwOf s q ∧ swOf t q = swOf s q) ∧
      hwOf t p = { hwOf s p with stallIn := (hwOf t p).stallIn, stallOut := (hwOf t p).stallOut } ∧
      (∀ (d : Dir) (e : EpNo), stallBit (hwOf t p) d e = if e = 0 then epWrite s.cfg 0 true else stallBit (hwOf s p) d e) ∧
      swOf t p = { swOf s p with cp := .idle } ∧
      t = { s with
        hw := t.hw, sw := t.sw, ret := .nothing,
        g := { s.g with obs := s.g.obs ++ [.stallSet p .inp 0, .stallSet p .out 0] } }) ∧
  (∀ (p : Port) (s : State), Undisturbed p s 5 → ∃ t : State, exec (.dataOutBegin p) s = .next t ∧
      (∀ q : Port, q ≠ p → hwOf t q = hwOf s q ∧ swOf t q = swOf s q) ∧
      hwOf t p = { hwOf s p with outPrimed := (hwOf t p).outPrimed } ∧
      (∀ e : EpNo, epBit (hwOf t p).outPrimed e = if e = 0 then epWrite s.cfg 0 true else epBit (hwOf s p).outPrimed e) ∧
      swOf t p = { swOf s p with rxBuf := [], rxTotal := 0, cp := .dataOut } ∧
      t = { s with hw := t.hw, sw := t.sw, ret := .nothing, g := { s.g with obs := s.g.obs ++ [.outPrime p 0] } })

/-- SEND_RESPONSE of a reply that fits one packet: cut to `length`, never padded, committed once; endpoint 0 primed at
once; no data stage when `length = 0`. -/
def Obligations.SendResponseOnePacket : Prop :=
  ∀ (p : Port) (bytes : List Byte) (s : State), directionOf (latched s p) = .deviceToHost → OnePacket p bytes s →
    Undisturbed p s ((replyBytes p s bytes).length + 14) →
    ((latched s p).length = 0 → exec (.sendResponse p bytes) s = .next (afterStatusOut p (setRet .nothing s))) ∧
    ((latched s p).length ≠ 0 → exec (.sendResponse p bytes) s
      = .next (afterStatusOut p (afterWrite p 0 (bytes.take (latched s p).length.toNat) (setRet .nothing s))))

/-- CTE_RECEIVE_PACKET in every value of cp: the status packet ends the transfer; a data packet is stored and primed for
the next, or ends the stage, when the hook of the packet's type sees the bytes; anywhere else the packet is drained and
counted. -/
def Obligations.EngineReceivePacket : Prop :=
  ∀ (p : Port) (s : State), Undisturbed p s (2 * (hwOf s p).outFifo.length + 8) →
    ((swOf s p).cp = .statusOut → exec (.cteReceivePacket p) s
      = .next (updSw p (fun u => { u with cp := .idle }) (afterRead p .out 0 (setRet .nothing s)))) ∧
    ((swOf s p).cp ≠ .statusOut → (swOf s p).cp ≠ .dataOut → exec (.cteReceivePacket p) s
      = .next (updSw p (fun u => { u with ctrUnexpected := u.ctrUnexpected + 1 }) (afterRead p .out 0 (setRet .nothing s)))) ∧
    ((swOf s p).cp = .dataOut → ¬DataStageEnds p s → exec (.cteReceivePacket p) s
      = .next (observe (.outPrime p 0) (updHw p (fun h => { h with
          outPrimed := setEpBit h.outPrimed 0 (epWrite s.cfg 0 true) }) (afterDataOutRead p s)))) ∧
    (∀ kind : HookKind, (swOf s p).cp = .dataOut → DataStageEnds p s →
      (typeOf (latched s p), kind) ∈ [(RequestType.classType, HookKind.classHook), (.vendor, .vendorHook)] →
      Continues (.cteReceivePacket p) (.runHook p kind (swOf s p).x.x1 (swOf (afterDataOutRead p s) p).rxBuf)
        (2 * (hwOf s p).outFifo.length + 8) s (updSw p (fun u => { u with rxBuf := [], rxTotal := 0 }) (afterDataOutRead p s))) ∧
    ((swOf s p).cp = .dataOut → DataStageEnds p s → (typeOf (latched s p) = .standard ∨ typeOf (latched s p) = .reserved) →
      Undisturbed p s (2 * (hwOf s p).outFifo.length + 12) → exec (.cteReceivePacket p) s
        = .next (afterStall p (updSw p (fun u => { u with rxBuf := [], rxTotal := 0 }) (afterDataOutRead p s))))

/-- CTE_SEND_COMPLETE: in StatusIn with no deferred address, Idle; with one and the flag clear, the address is written and
Idle; with the flag set, nothing; in every other state, nothing. -/
def Obligations.EngineSendComplete : Prop :=
  ∀ (p : Port) (s : State), Undisturbed p s 5 →
    ((swOf s p).cp = .statusIn → (swOf s p).deferredAddress = none →
      exec (.cteSendComplete p) s = .next (updSw p (fun u => { u with cp := .idle }) (setRet .nothing s))) ∧
    (∀ a : DevAddr, (swOf s p).cp = .statusIn → (swOf s p).deferredAddress = some a → (swOf s p).pendingTxAck = false →
      exec (.cteSendComplete p) s
        = .next (observe (.addrWrite p a) (updHw p (fun h => { h with epcAddress := a, outAddress := a })
            (updSw p (fun u => { u with address := a, deferredAddress := none, cp := .idle }) (setRet .nothing s))))) ∧
    ((swOf s p).cp = .statusIn → (swOf s p).deferredAddress ≠ none → (swOf s p).pendingTxAck = true →
      exec (.cteSendComplete p) s = .next (setRet .nothing s)) ∧
    ((swOf s p).cp ≠ .statusIn → exec (.cteSendComplete p) s = .next (setRet .nothing s))

/-- RUN_HOOK: an absent or rejecting hook stalls; a responding one is answered by the engine, with SEND_RESPONSE or
ACK_STATUS_STAGE; one that consumed the request has had its operations performed, in their order, and only cp follows: the
operations are its own data and status stage. -/
def Obligations.RunHook : Prop :=
  ∀ (p : Port) (kind : HookKind) (k : Byte) (data : List Byte) (s : State),
    (hookOf s.cfg.hooks kind = none → Undisturbed p s 5 →
      exec (.runHook p kind k data) s = .next (afterStall p (setRet .nothing s))) ∧
    (∀ h : Hook, hookOf s.cfg.hooks kind = some h →
      (hookResult h ⟨p, latched s p, k, data⟩ = .reject → Undisturbed p s 5 →
        exec (.runHook p kind k data) s = .next (afterStall p (setRet .nothing s))) ∧
      (∀ bytes : List Byte, hookResult h ⟨p, latched s p, k, data⟩ = .respond bytes →
        (directionOf (latched s p) = .hostToDevice → Undisturbed p s 8 →
          exec (.runHook p kind k data) s = .next (afterStatusIn p (setRet .nothing s))) ∧
        (directionOf (latched s p) = .deviceToHost → Ready p s →
          Continues (.runHook p kind k data) (.sendResponse p bytes) 1 s s ∧
          (OnePacket p bytes s → (replyBytes p s bytes).length + 15 ≤ turnLength s →
            exec (.runHook p kind k data) s = .next (afterResponse p bytes (setRet .nothing s))))) ∧
      (∀ (ops : List PortOp) (n : Nat) (c : PipeState), hookResult h ⟨p, latched s p, k, data⟩ = .consumed ops →
        Ready p s → turnLength s = n + 1 →
        c = (match directionOf (latched s p) with | .deviceToHost => .statusOut | .hostToDevice => .statusIn) →
        exec (.runHook p kind k data) s = turnOf n (ops.map (Task.call p) ++ [.sw p (.cp c)]) s ∧
        (ops.all isOneStep = true → ops.length + 1 ≤ n →
          exec (.runHook p kind k data) s
            = .next (updSw p (fun u => { u with cp := c }) (afterOps p ops (setRet .nothing s)))) ∧
        (ops = [.writeZlp 0] → directionOf (latched s p) = .hostToDevice → 8 ≤ n →
          exec (.runHook p kind k data) s = .next (afterStatusIn p (setRet .nothing s)))))

/-! ## The endpoint I/O primitives (45_endpoint_io.md) -/

/-- READ and READ_CONTROL: the first bytes that fit, how many did not, and an empty FIFO. -/
def Obligations.ReadDrainsFifo : Prop :=
  ∀ (p : Port) (s : State), Ready p s →
    (∀ (f : ReadFifo) (len : Nat), 2 * (fifoOf (hwOf s p) f).length + 2 ≤ turnLength s →
      exec (.read p f len) s = .next (setRet (.read ((fifoOf (hwOf s p) f).take len)
        (min len (fifoOf (hwOf s p) f).length) ((fifoOf (hwOf s p) f).length - len)) (afterRead p f len s))) ∧
    (2 * (hwOf s p).epcFifo.length + 2 ≤ turnLength s →
      exec (.readControl p) s = .next (setRet (.read ((hwOf s p).epcFifo.take 8)
        (min 8 (hwOf s p).epcFifo.length) ((hwOf s p).epcFifo.length - 8)) (afterRead p .ctrl 8 s)))

/-- WRITE of at most one packet, and WRITE_ZLP: stale bytes are reset and counted first; what the FIFO cannot hold is
dropped and counted; there is exactly one commit, also of no bytes. -/
def Obligations.WriteOnePacket : Prop :=
  ∀ (p : Port) (ep : EpNo) (s : State), Ready p s →
    (∀ (bytes : List Byte) (size : Nat), bytes.length ≤ size → bytes.length + 4 ≤ turnLength s →
      exec (.write p ep bytes size) s = .next (setRet .writeOk (afterWrite p ep bytes s))) ∧
    (4 ≤ turnLength s → exec (.writeZlp p ep) s = .next (setRet .writeOk (afterWrite p ep [] s)))

/-- The packet-count property (R243), for one schedule: the host takes each packet after the turn that committed it. Then a
WRITE commits ceil(K/P) packets (one for K = 0), each of P bytes but the last, the host receives exactly these pieces in order,
nothing is dropped and `ok` is returned. The turns, their length and that the waiting agent gives way at each poll are the
model's (logs 2, 26, 29); a budget must be 2 at least, since a poll is made before the host can take the packet. -/
def Obligations.WritePacketsReachHost : Prop :=
  ∀ (p : Port) (a : DevAddr) (e : EpNo) (bytes : List Byte) (size count : Nat) (s : State),
    Ready p s → s.main = [] → (hwOf s p).connect = true → a = (hwOf s p).epcAddress →
    stallBit (hwOf s p) .inp e = false → (hwOf s p).inFifo = [] → 1 ≤ size → size ≤ s.cfg.inFifoDepth →
    size + 10 ≤ turnLength s → (∀ b : Nat, s.cfg.writeWaitBudget = some b → 2 ≤ b) →
    count = (if bytes.length = 0 then 1 else (bytes.length + size - 1) / size) →
    ∃ t0 t u : State, ∃ l : List Obs,
      exec (.write p e bytes size) s = .next t0 ∧ takeAndGoOn p a e (count - 1) t0 = .next t ∧
      t.main = [] ∧ t.ret = .writeOk ∧ exec (.hostInTake p a e) t = .next u ∧
      u.g.obs = s.g.obs ++ l ∧
      commitsIn p e l = (List.range count).map (fun k => (packetOf bytes size k).length) ∧
      packetsIn p e l = (List.range count).map (packetOf bytes size) ∧
      ((List.range count).map (packetOf bytes size)).flatten = bytes ∧
      swOf u p = swOf s p

/-- While the host does not take a packet, a WRITE of more bytes waits: with no budget for ever; with one, until it is used
up, when it returns `expired` with the first packet still in flight and no byte behind it pushed. -/
def Obligations.WriteWaitsForHost : Prop :=
  ∀ (p : Port) (e : EpNo) (bytes : List Byte) (size : Nat) (s : State),
    Ready p s → s.main = [] → (hwOf s p).inFifo = [] → 1 ≤ size → size ≤ s.cfg.inFifoDepth →
    size < bytes.length → size + 10 ≤ turnLength s →
    ∃ t0 : State, exec (.write p e bytes size) s = .next t0 ∧
      (s.cfg.writeWaitBudget = none → ∀ n : Nat, ∃ t : State, mainSteps n t0 = .next t ∧ t.main ≠ [] ∧ t.hw = t0.hw ∧
        t.sw = s.sw ∧ t.g = { s.g with obs := s.g.obs ++ [.inCommit p e size] }) ∧
      (∀ b : Nat, s.cfg.writeWaitBudget = some (b + 1) → ∃ t : State, mainSteps b t0 = .next t ∧ t.main = [] ∧
        t.ret = .writeExpired ∧ t.g = { s.g with obs := s.g.obs ++ [.inCommit p e size] } ∧
        hwOf t p = { hwOf s p with inFifo := bytes.take size, inEpno := e, inFlight := true } ∧
        swOf t p = { swOf s p with ctrWaitExpired := (swOf s p).ctrWaitExpired + 1 })

/-! ## The request rows (44_control_engine.md R198 to R210; that a row latches its packet first is log 6) -/

/-- The requests that are always rejected, and every request row whose packet names no hook that is present: the packet is
latched, endpoint 0 stalled, and cp Idle. -/
def Obligations.RejectedRequests : Prop :=
  ∀ (p : Port) (pk : SetupPacket) (s : State), Undisturbed p s 8 →
    (∀ i ∈ [Instr.reqSetDescriptor p pk, .reqSynchFrame p pk, .reqReservedStd2 p pk, .reqReservedStd4 p pk,
        .reqReservedType3 p pk],
      exec i s = .next (afterStall p (served p pk s))) ∧
    ((typeOf pk = .standard ∨ typeOf pk = .reserved ∨ (typeOf pk = .classType ∧ s.cfg.hooks.classHook = none) ∨
        (typeOf pk = .vendor ∧ s.cfg.hooks.vendorHook = none)) →
      ∀ i ∈ [Instr.reqClassOrVendorStd13 p pk, .reqClassOrVendorStd14To15 p pk, .reqClassOrVendorStd16To31 p pk,
          .reqClassOrVendorStd32To63 p pk, .reqClassOrVendorStd64To127 p pk, .reqClassOrVendorStd128To255 p pk,
          .reqClassOrVendorClass p pk, .reqClassOrVendorVendor p pk],
        exec i s = .next (afterStall p (served p pk s)))

/-- Class and Vendor requests with a hook: a host-to-device data stage is begun first; else the hook runs at once, as
RUN_HOOK does, whatever its result; here that of a hook that rejects, or responds with one packet, is written out. -/
def Obligations.HookedRequests : Prop :=
  ∀ (p : Port) (pk : SetupPacket) (kind : HookKind) (h : Hook) (i : Instr) (s : State),
    ((i = .reqClassOrVendorClass p pk ∧ typeOf pk = .classType ∧ kind = .classHook) ∨
      (i = .reqClassOrVendorVendor p pk ∧ typeOf pk = .vendor ∧ kind = .vendorHook)) → hookOf s.cfg.hooks kind = some h →
    (directionOf pk = .hostToDevice → pk.length ≠ 0 → Undisturbed p s 8 →
      exec i s = .next (afterDataOutBegin p (served p pk s))) ∧
    ((directionOf pk = .deviceToHost ∨ pk.length = 0) → Ready p s →
      Continues i (.runHook p kind pk.request []) 2 s (served p pk s)) ∧
    (directionOf pk = .hostToDevice → pk.length = 0 → Undisturbed p s 11 →
      (hookResult h ⟨p, pk, pk.request, []⟩ = .reject → exec i s = .next (afterStall p (served p pk s))) ∧
      (∀ bytes : List Byte, hookResult h ⟨p, pk, pk.request, []⟩ = .respond bytes →
        exec i s = .next (afterStatusIn p (served p pk s)))) ∧
    (directionOf pk = .deviceToHost →
      (hookResult h ⟨p, pk, pk.request, []⟩ = .reject → Undisturbed p s 8 → exec i s = .next (afterStall p (served p pk s))) ∧
      (∀ bytes : List Byte, hookResult h ⟨p, pk, pk.request, []⟩ = .respond bytes → OnePacket p bytes (served p pk s) →
        Undisturbed p s ((bytes.take pk.length.toNat).length + 20) →
        exec i s = .next (afterResponse p bytes (served p pk s))))

/-- GetStatus: two bytes; self-powered and remote-wakeup bits for the device, 0 for an interface, the stall bit for an
endpoint; rejected for any other recipient and in the other direction. The reply goes the way of SEND_RESPONSE, whatever the
packet size; where it fits one packet, the state it leaves is written out. -/
def Obligations.GetStatusRequest : Prop :=
  ∀ (p : Port) (pk : SetupPacket) (s : State),
    (∀ (reply : List Byte) (k : Nat), directionOf pk = .deviceToHost → Ready p s →
      ((recipientOf pk = .device ∧ k = 2 ∧ reply
          = [BitVec.ofNat 8 ((if s.cfg.selfPowered then 1 else 0) + 2 * (if (swOf s p).remoteWakeup then 1 else 0)), 0x00]) ∨
        (recipientOf pk = .interface ∧ k = 2 ∧ reply = [0x00, 0x00]) ∨
        (recipientOf pk = .endpoint ∧ k = 3 ∧ reply
          = [if stallBit (hwOf s p) (epAddrSplit (lo8 pk.index)).1 (epAddrSplit (lo8 pk.index)).2 = true then 0x01 else 0x00,
              0x00])) →
      Continues (.reqGetStatus p pk) (.sendResponse p reply) k s (served p pk s) ∧
      (OnePacket p reply (served p pk s) → 24 ≤ turnLength s →
        exec (.reqGetStatus p pk) s = .next (afterResponse p reply (served p pk s)))) ∧
    (Undisturbed p s 8 → (directionOf pk = .hostToDevice ∨ recipientOf pk ∉ [Recipient.device, .interface, .endpoint]) →
      exec (.reqGetStatus p pk) s = .next (afterStall p (served p pk s)))

/-- ClearFeature and SetFeature, in their own rows and in the rows of their sub-cases: EndpointHalt of an endpoint,
DeviceRemoteWakeup of the device; everything else is rejected. -/
def Obligations.FeatureRequests : Prop :=
  ∀ (p : Port) (pk : SetupPacket) (d : Dir) (n : EpNo) (s : State), Undisturbed p s 14 → (d, n) = epAddrSplit (lo8 pk.index) →
    (directionOf pk = .hostToDevice → pk.length = 0 → recipientOf pk = .endpoint → pk.value = 0 →
      (∀ i ∈ [Instr.reqClearFeature p pk, .reqClearFeatureEndpointHalt p pk],
        exec i s = .next (afterStatusIn p (opClearHalt p (lo8 pk.index) (opUnstall p d n (served p pk s))))) ∧
      (∀ i ∈ [Instr.reqSetFeature p pk, .reqSetFeatureEndpointHalt p pk],
        exec i s = .next (afterStatusIn p (opStall p d n (served p pk s))))) ∧
    (directionOf pk = .hostToDevice → pk.length = 0 → recipientOf pk = .device → pk.value = 1 →
      (∀ i ∈ [Instr.reqClearFeature p pk, .reqClearFeatureDeviceRemoteWakeup p pk],
        exec i s = .next (afterStatusIn p (updSw p (fun u => { u with remoteWakeup := false }) (served p pk s)))) ∧
      (∀ i ∈ [Instr.reqSetFeature p pk, .reqSetFeatureDeviceRemoteWakeup p pk],
        exec i s = .next (afterStatusIn p (updSw p (fun u => { u with remoteWakeup := true }) (served p pk s))))) ∧
    ((directionOf pk = .deviceToHost ∨ pk.length ≠ 0 ∨
        ¬((recipientOf pk = .endpoint ∧ pk.value = 0) ∨ (recipientOf pk = .device ∧ pk.value = 1))) →
      ∀ i ∈ [Instr.reqClearFeature p pk, .reqClearFeatureEndpointHalt p pk, .reqClearFeatureDeviceRemoteWakeup p pk,
          .reqSetFeature p pk, .reqSetFeatureEndpointHalt p pk, .reqSetFeatureDeviceRemoteWakeup p pk],
        exec i s = .next (afterStall p (served p pk s)))

/-- SetAddress: the address is deferred, the flag set, then the status packet committed; no address register is written;
rejected for another recipient or direction, a data stage, or a value above 127. -/
def Obligations.SetAddressRequest : Prop :=
  ∀ (p : Port) (pk : SetupPacket) (s : State), Undisturbed p s 14 →
    (directionOf pk = .hostToDevice → recipientOf pk = .device → pk.length = 0 → pk.value.toNat ≤ 127 →
      ∃ (t : State) (a : DevAddr), a.toNat = pk.value.toNat ∧ exec (.reqSetAddress p pk) s = .next t ∧
        t = afterStatusIn p (updSw p (fun u => { u with deferredAddress := some a, pendingTxAck := true }) (served p pk s)) ∧
        ∀ q : Port, (hwOf t q).epcAddress = (hwOf s q).epcAddress ∧ (hwOf t q).outAddress = (hwOf s q).outAddress ∧
          (swOf t q).address = (swOf s q).address) ∧
    ((directionOf pk = .deviceToHost ∨ recipientOf pk ≠ .device ∨ pk.length ≠ 0 ∨ 127 < pk.value.toNat) →
      exec (.reqSetAddress p pk) s = .next (afterStall p (served p pk s)))

/-- GetDescriptor, in its own row and in the rows of its sub-cases: the blob of the tables that type, index and speed
select, the string hook for a string the table lacks, and rejection of everything else. A reply goes the way of
SEND_RESPONSE, whatever its length; where it fits one packet, the state it leaves is written out. -/
def Obligations.GetDescriptorRequest : Prop :=
  ∀ (p : Port) (pk : SetupPacket) (i : Instr) (s : State),
    i ∈ [Instr.reqGetDescriptor p pk, .reqGetDescriptorDevice p pk, .reqGetDescriptorConfiguration p pk,
      .reqGetDescriptorString p pk, .reqGetDescriptorDeviceQualifier p pk] →
    (∀ blob : List Byte, directionOf pk = .deviceToHost → recipientOf pk = .device → Ready p s →
      ((pk.value.toNat / 256 = 1 ∧ s.cfg.tables.device = blob) ∨
        (pk.value.toNat / 256 = 2 ∧ configBlob s.cfg.tables (swOf s p).speed (lo8 pk.value) = some blob) ∨
        (pk.value.toNat / 256 = 3 ∧ stringBlob s.cfg.tables (lo8 pk.value) = some blob) ∨
        (pk.value.toNat / 256 = 6 ∧ s.cfg.tables.qualifier = some blob)) →
      Continues i (.sendResponse p blob) 2 s (served p pk s) ∧
      (OnePacket p blob (served p pk s) → (blob.take pk.length.toNat).length + 20 ≤ turnLength s →
        exec i s = .next (afterResponse p blob (served p pk s)))) ∧
    (∀ h : Hook, directionOf pk = .deviceToHost → recipientOf pk = .device → Ready p s → pk.value.toNat / 256 = 3 →
      stringBlob s.cfg.tables (lo8 pk.value) = none → s.cfg.hooks.stringHook = some h →
      Continues i (.runHook p .stringHook (lo8 pk.value) []) 2 s (served p pk s) ∧
      (∀ blob : List Byte, hookResult h ⟨p, pk, lo8 pk.value, []⟩ = .respond blob → OnePacket p blob (served p pk s) →
        (blob.take pk.length.toNat).length + 20 ≤ turnLength s →
        exec i s = .next (afterResponse p blob (served p pk s)))) ∧
    (Undisturbed p s 8 →
      ((directionOf pk = .hostToDevice ∨ recipientOf pk ≠ .device) ∨
        (pk.value.toNat / 256 = 2 ∧ configBlob s.cfg.tables (swOf s p).speed (lo8 pk.value) = none) ∨
        (pk.value.toNat / 256 = 3 ∧ stringBlob s.cfg.tables (lo8 pk.value) = none ∧
          ∀ h : Hook, s.cfg.hooks.stringHook = some h → hookResult h ⟨p, pk, lo8 pk.value, []⟩ = .reject) ∨
        (pk.value.toNat / 256 = 6 ∧ s.cfg.tables.qualifier = none) ∨
        pk.value.toNat / 256 ∉ [1, 2, 3, 6]) →
      exec i s = .next (afterStall p (served p pk s)))

/-- GetConfiguration and SetConfiguration (the low byte of `value` alone counts); GetInterface and SetInterface: only when
configured, only alternate setting 0. A reply goes the way of SEND_RESPONSE, whatever the packet size; where it fits one
packet, the state it leaves is written out. -/
def Obligations.ConfigurationAndInterfaceRequests : Prop :=
  (∀ (p : Port) (pk : SetupPacket) (s : State), Undisturbed p s 24 →
      (directionOf pk = .deviceToHost → recipientOf pk = .device →
        Continues (.reqGetConfiguration p pk) (.sendResponse p [(swOf s p).configValue]) 2 s (served p pk s) ∧
        (OnePacket p [(swOf s p).configValue] (served p pk s) →
          exec (.reqGetConfiguration p pk) s = .next (afterResponse p [(swOf s p).configValue] (served p pk s)))) ∧
      ((directionOf pk = .hostToDevice ∨ recipientOf pk ≠ .device) →
        exec (.reqGetConfiguration p pk) s = .next (afterStall p (served p pk s))) ∧
      (∀ v : Byte, v.toNat = pk.value.toNat % 256 →
        (directionOf pk = .hostToDevice → recipientOf pk = .device → pk.length = 0 →
          (v = 0 ∨ configValid s.cfg.tables (swOf s p).speed v = true) →
          exec (.reqSetConfiguration p pk) s
            = .next (afterStatusIn p (updSw p (fun u => { u with configValue := v }) (served p pk s)))) ∧
        ((directionOf pk = .deviceToHost ∨ recipientOf pk ≠ .device ∨ pk.length ≠ 0 ∨
            (v ≠ 0 ∧ configValid s.cfg.tables (swOf s p).speed v = false)) →
          exec (.reqSetConfiguration p pk) s = .next (afterStall p (served p pk s))))) ∧
  (∀ (p : Port) (pk : SetupPacket) (s : State), Undisturbed p s 24 →
      (directionOf pk = .deviceToHost → recipientOf pk = .interface → (swOf s p).configValue ≠ 0 →
        Continues (.reqGetInterface p pk) (.sendResponse p [0x00]) 2 s (served p pk s) ∧
        (OnePacket p [0x00] (served p pk s) →
          exec (.reqGetInterface p pk) s = .next (afterResponse p [0x00] (served p pk s)))) ∧
      ((directionOf pk = .hostToDevice ∨ recipientOf pk ≠ .interface ∨ (swOf s p).configValue = 0) →
        exec (.reqGetInterface p pk) s = .next (afterStall p (served p pk s))) ∧
      (directionOf pk = .hostToDevice → recipientOf pk = .interface → pk.length = 0 → (swOf s p).configValue ≠ 0 →
        pk.value = 0 → exec (.reqSetInterface p pk) s = .next (afterStatusIn p (served p pk s))) ∧
      ((directionOf pk = .deviceToHost ∨ recipientOf pk ≠ .interface ∨ pk.length ≠ 0 ∨ (swOf s p).configValue = 0 ∨
          pk.value ≠ 0) →
        exec (.reqSetInterface p pk) s = .next (afterStall p (served p pk s))))

/-! ## Replies of more than one packet -/

/-- SEND_RESPONSE of a reply of more than one packet. Where the host takes each packet after the turn that committed it (one
schedule; its turns and polls are the model's, logs 2, 26, 29), the packets are the pieces of the reply in order, the last one
stands committed in the IN FIFO, and only then endpoint 0 is primed for the status stage, in StatusOut. Where it takes none and
there is a budget, WRITE returns expired: the reply ends in the stall of both directions, in Idle, with the first packet
still in flight. -/
def Obligations.SendResponseManyPackets : Prop :=
  ∀ (p : Port) (bytes reply : List Byte) (size : Nat) (s : State),
    Ready p s → s.main = [] → (hwOf s p).inFifo = [] → directionOf (latched s p) = .deviceToHost →
    reply = bytes.take (latched s p).length.toNat → size = mpsOf s.cfg (swOf s p).speed → 1 ≤ size →
    size ≤ s.cfg.inFifoDepth → size < reply.length → size + 14 ≤ turnLength s →
    (∀ (a : DevAddr) (count : Nat), (hwOf s p).connect = true → a = (hwOf s p).epcAddress →
      stallBit (hwOf s p) .inp 0 = false → (∀ b : Nat, s.cfg.writeWaitBudget = some b → 2 ≤ b) →
      count = (reply.length + size - 1) / size →
      ∃ t0 t : State, ∃ l : List Obs,
        exec (.sendResponse p bytes) s = .next t0 ∧ takeAndGoOn p a 0 (count - 1) t0 = .next t ∧ t.main = [] ∧
        t.g.obs = s.g.obs ++ l ++ [.outPrime p 0] ∧
        commitsIn p 0 l = (List.range count).map (fun k => (packetOf reply size k).length) ∧
        packetsIn p 0 l = (List.range (count - 1)).map (packetOf reply size) ∧
        (hwOf t p).inFifo = packetOf reply size (count - 1) ∧ (hwOf t p).inEpno = 0 ∧ (hwOf t p).inFlight = true ∧
        epBit (hwOf t p).outPrimed 0 = epWrite s.cfg 0 true ∧ swOf t p = { swOf s p with cp := .statusOut }) ∧
    (∀ b : Nat, s.cfg.writeWaitBudget = some (b + 1) →
      ∃ t0 t : State, exec (.sendResponse p bytes) s = .next t0 ∧ mainSteps b t0 = .next t ∧ t.main = [] ∧
        t.g = { s.g with obs := s.g.obs ++ [.inCommit p 0 size, .stallSet p .inp 0, .stallSet p .out 0] } ∧
        hwOf t p = { hwOf s p with
          inFifo := reply.take size, inEpno := 0, inFlight := true,
          stallIn := setEpBit (hwOf s p).stallIn 0 (epWrite s.cfg 0 true),
          stallOut := setEpBit (hwOf s p).stallOut 0 (epWrite s.cfg 0 true) } ∧
        swOf t p = { swOf s p with ctrWaitExpired := (swOf s p).ctrWaitExpired + 1, cp := .idle })
end

