-- ==== Sys2Proof/Laws/Decode.lean ====
section
/-! SUPPORT. Reading back each operand field that the encoder writes, and the rows of constants. -/

namespace Sys2Proof

/-- Reading a field back gives what was written and leaves the bytes behind it. -/
def Inverse {α : Type} (get : Get α) (put : α → List Byte) (ok : α → Prop) : Prop :=
  ∀ a r, ok a → get (put a ++ r) = some (a, r)

namespace Machine

@[simp] theorem le16_lo8_hi8 (w : Half) : le16 (lo8 w) (hi8 w) = w := by
  apply BitVec.eq_of_toNat_eq
  simp only [le16, lo8, hi8, BitVec.toNat_append, BitVec.extractLsb'_toNat]
  have := w.isLt
  rw [← Nat.shiftLeft_add_eq_or_of_lt (by omega)]
  simp only [Nat.shiftRight_eq_div_pow, Nat.shiftLeft_eq]
  omega

@[simp] theorem decSetup_encSetup (s : SetupPacket) : decSetup (encSetup s) = s := by
  simp [decSetup, encSetup]

end Machine

theorem inverse_byte : Inverse getByte putByte (fun _ => True) := fun _ _ _ => rfl

theorem inverse_port : Inverse getPort putPort (fun p => fitsPort p = true) := by
  intro p r h
  have hp : p < 256 := by simpa [fitsPort] using h
  simp [putPort, getPort, Nat.mod_eq_of_lt hp]

theorem inverse_source : Inverse getSource putSource (fun _ => True) := by
  intro a r _
  cases a <;> rfl

theorem inverse_fifoGroup : Inverse getFifoGroup putFifoGroup (fun _ => True) := by
  intro a r _
  cases a <;> rfl

theorem inverse_readFifo : Inverse getReadFifo putReadFifo (fun _ => True) := by
  intro a r _
  cases a <;> rfl

theorem inverse_dir : Inverse getDir putDir (fun _ => True) := by
  intro a r _
  cases a <;> rfl

theorem inverse_speed : Inverse getSpeed putSpeed (fun _ => True) := by
  intro a r _
  cases a <;> rfl

theorem inverse_hookKind : Inverse getHookKind putHookKind (fun _ => True) := by
  intro a r _
  cases a <;> rfl

theorem inverse_epNo : Inverse getEpNo putEpNo (fun _ => True) := by
  intro e r _
  have h := e.isLt
  have hn : (e.setWidth 8).toNat = e.toNat := by simp; omega
  have hw : (e.setWidth 8).setWidth 4 = e := by
    apply BitVec.eq_of_toNat_eq
    simp
  simp only [putEpNo, getEpNo, List.cons_append, List.nil_append, hn, hw]
  rw [if_pos h]

theorem inverse_devAddr : Inverse getDevAddr putDevAddr (fun _ => True) := by
  intro a r _
  have h := a.isLt
  have hn : (a.setWidth 8).toNat = a.toNat := by simp; omega
  have hw : (a.setWidth 8).setWidth 7 = a := by
    apply BitVec.eq_of_toNat_eq
    simp
  simp only [putDevAddr, getDevAddr, List.cons_append, List.nil_append, hn, hw]
  rw [if_pos h]

theorem inverse_nat16 : Inverse getNat16 putNat16 (fun n => n < 65536) := by
  intro n r h
  simp only [putNat16, getNat16, List.cons_append, List.nil_append, BitVec.toNat_ofNat]
  congr 2
  omega

theorem inverse_nat32 : Inverse getNat32 putNat32 (fun n => fits32 n = true) := by
  intro n r h
  have h32 : n < 4294967296 := by simpa [fits32] using h
  have h1 := inverse_nat16 (n % 65536) (putNat16 (n / 65536) ++ r) (by omega)
  have h2 := inverse_nat16 (n / 65536) r (by omega)
  have e : putNat16 n = putNat16 (n % 65536) := by
    have a : BitVec.ofNat 8 n = BitVec.ofNat 8 (n % 65536) := by
      apply BitVec.eq_of_toNat_eq
      simp only [BitVec.toNat_ofNat]
      omega
    have b : BitVec.ofNat 8 (n / 256) = BitVec.ofNat 8 (n % 65536 / 256) := by
      apply BitVec.eq_of_toNat_eq
      simp only [BitVec.toNat_ofNat]
      omega
    simp [putNat16, a, b]
  simp only [putNat32, getNat32, List.append_assoc, e, h1, h2]
  congr 2
  omega

theorem inverse_size : Inverse getSize putSize (fun n => fitsSize n = true) := by
  intro n r h
  have hn : 1 ≤ n ∧ n ≤ 65536 := by simpa [fitsSize] using h
  have h1 := inverse_nat16 (n - 1) r (by omega)
  simp only [putSize, getSize, h1]
  congr 2
  omega

theorem inverse_bytes : Inverse getBytes putBytes (fun bytes => fitsCount bytes = true) := by
  intro bytes r h
  have hn : bytes.length < 65536 := by simpa [fitsCount] using h
  have h1 := inverse_nat16 bytes.length (bytes ++ r) hn
  simp [putBytes, getBytes, h1]

theorem inverse_setupBytes : Inverse getSetupBytes putSetupBytes (fun _ => True) := fun _ _ _ => rfl

theorem inverse_packet : Inverse getPacket putPacket (fun _ => True) := by
  intro s r _
  simp [getPacket, putPacket, inverse_setupBytes (Machine.encSetup s) r trivial]

theorem inverse_half : Inverse getHalf putHalf (fun _ => True) := by
  intro v r _
  simp [getHalf, putHalf]

theorem inverse_portEp {p : Port} (h : fitsPort p = true) (e : EpNo) (r : List Byte) :
    getPortEp (putPort p ++ (putEpNo e ++ r)) = some ((p, e), r) := by
  simp [getPortEp, inverse_port p _ h, inverse_epNo e _ trivial]

theorem inverse_event : Inverse getEvent putEvent (fun ev => fitsEvent ev = true) := by
  intro ev r h
  cases ev with
  | busReset p => simp [putEvent, getEvent, inverse_port p r h]
  | receiveControl p e => simp [putEvent, getEvent, inverse_portEp h]
  | receivePacket p e => simp [putEvent, getEvent, inverse_portEp h]
  | sendComplete p e => simp [putEvent, getEvent, inverse_portEp h]
  | unknownInterrupt raw => simp [putEvent, getEvent, inverse_nat32 raw r h]
  | error => rfl

/-! ## Operand lists -/

theorem args1_ok {α : Type} {ga : Get α} {pa : α → List Byte} {oka : α → Prop} (ha : Inverse ga pa oka) (mk : α → Instr)
    {a : α} (r : List Byte) (h : oka a) : args1 ga mk (pa a ++ r) = .ok (mk a, r) := by
  simp [args1, ha a r h]

theorem args2_ok {α β : Type} {ga : Get α} {pa : α → List Byte} {oka : α → Prop} (ha : Inverse ga pa oka) {gb : Get β}
    {pb : β → List Byte} {okb : β → Prop} (hb : Inverse gb pb okb) (mk : α → β → Instr) {a : α} {b : β} (r : List Byte)
    (h : oka a) (h' : okb b) : args2 ga gb mk ((pa a ++ pb b) ++ r) = .ok (mk a b, r) := by
  rw [List.append_assoc]
  simp [args2, ha a _ h, args1_ok hb _ r h']

theorem args3_ok {α β γ : Type} {ga : Get α} {pa : α → List Byte} {oka : α → Prop} (ha : Inverse ga pa oka) {gb : Get β}
    {pb : β → List Byte} {okb : β → Prop} (hb : Inverse gb pb okb) {gc : Get γ} {pc : γ → List Byte} {okc : γ → Prop}
    (hc : Inverse gc pc okc) (mk : α → β → γ → Instr) {a : α} {b : β} {c : γ} (r : List Byte) (h : oka a) (h' : okb b)
    (h'' : okc c) : args3 ga gb gc mk ((pa a ++ pb b ++ pc c) ++ r) = .ok (mk a b c, r) := by
  have e : (pa a ++ pb b ++ pc c) ++ r = pa a ++ ((pb b ++ pc c) ++ r) := by simp
  rw [e]
  simp only [args3, ha a _ h, args2_ok hb hc _ r h' h'']

theorem args4_ok {α β γ δ : Type} {ga : Get α} {pa : α → List Byte} {oka : α → Prop} (ha : Inverse ga pa oka)
    {gb : Get β} {pb : β → List Byte} {okb : β → Prop} (hb : Inverse gb pb okb) {gc : Get γ} {pc : γ → List Byte}
    {okc : γ → Prop} (hc : Inverse gc pc okc) {gd : Get δ} {pd : δ → List Byte} {okd : δ → Prop} (hd : Inverse gd pd okd)
    (mk : α → β → γ → δ → Instr) {a : α} {b : β} {c : γ} {d : δ} (r : List Byte) (h : oka a) (h' : okb b) (h'' : okc c)
    (h''' : okd d) : args4 ga gb gc gd mk ((pa a ++ pb b ++ pc c ++ pd d) ++ r) = .ok (mk a b c d, r) := by
  have e : (pa a ++ pb b ++ pc c ++ pd d) ++ r = pa a ++ ((pb b ++ pc c ++ pd d) ++ r) := by simp
  rw [e]
  simp only [args4, ha a _ h, args3_ok hb hc hd _ r h' h'' h''']

/-- A packet with its port behind it decodes to the instruction of its row. -/
theorem decode_packet {p : Port} (h : fitsPort p = true) (s : SetupPacket) (r : List Byte) :
    decode .setup64 ((putPacket s ++ putPort p) ++ r) = .ok (requestInstr (Machine.requestRow s) p s, r) := by
  have e : (putPacket s ++ putPort p) ++ r = putPacket s ++ (putPort p ++ r) := by simp
  rw [e]
  simp only [decode, inverse_packet s _ trivial, inverse_port p r h, decodeRequestRow]

end Sys2Proof
end

