-- ==== Sys2Proof/Laws/State.lean ====
section
/-! SUPPORT. The small lemmas of the state's updates: what each update writes and what it leaves, one lemma a field,
so that no later proof unfolds a record update. -/

namespace Sys2Proof.Machine

/-! ## Bits -/

@[simp] theorem srcBit_setSrcBit (b : SrcBits) (src src' : Source) (v : Bool) :
    srcBit (setSrcBit b src v) src' = if src' = src then v else srcBit b src' := by
  cases src <;> cases src' <;> simp [srcBit, setSrcBit]

@[simp] theorem epBit_setEpBit (b : EpBits) (e e' : EpNo) (v : Bool) :
    epBit (setEpBit b e v) e' = if e' = e then v else epBit b e' := by
  unfold epBit setEpBit
  rw [Vector.getElem_set]
  by_cases h : e' = e
  · simp [h]
  · rw [if_neg (fun h' => h (BitVec.eq_of_toNat_eq h'.symm)), if_neg h]

@[simp] theorem epBit_zero (e : EpNo) : epBit EpBits.zero e = false := by
  unfold epBit EpBits.zero
  simp

@[simp] theorem stallBit_setStallBit (h : HwPort) (d d' : Dir) (e e' : EpNo) (v : Bool) :
    stallBit (setStallBit h d e v) d' e' = if d' = d ∧ e' = e then v else stallBit h d' e' := by
  cases d <;> cases d' <;> simp [stallBit, setStallBit]

@[simp] theorem pidBit_setPidBit (h : HwPort) (d d' : Dir) (e e' : EpNo) (v : Bool) :
    pidBit (setPidBit h d e v) d' e' = if d' = d ∧ e' = e then v else pidBit h d' e' := by
  cases d <;> cases d' <;> simp [pidBit, setPidBit]

theorem epWrite_of_lt {c : Params} {e : EpNo} (v : Bool) (h : e.toNat < c.nep) : epWrite c e v = v := by
  simp [epWrite, h]

@[simp] theorem epWrite_false (c : Params) (e : EpNo) : epWrite c e false = false := rfl

/-! ## Ports -/

theorem portExists_iff {p : Port} {s : State} : portExists p s = true ↔ p < s.hw.length ∧ p < s.sw.length := by
  simp [portExists]

@[simp] theorem hwOf_updHw (p q : Port) (f : HwPort → HwPort) (s : State) :
    hwOf (updHw p f s) q = if q = p ∧ p < s.hw.length then f (hwOf s p) else hwOf s q := by
  unfold hwOf updHw
  rw [List.getElem?_set]
  by_cases h : q = p
  · subst h
    by_cases hl : q < s.hw.length <;> simp [hl, hwOf]
  · simp [h, Ne.symm h]

@[simp] theorem swOf_updSw (p q : Port) (f : SwPort → SwPort) (s : State) :
    swOf (updSw p f s) q = if q = p ∧ p < s.sw.length then f (swOf s p) else swOf s q := by
  unfold swOf updSw
  rw [List.getElem?_set]
  by_cases h : q = p
  · subst h
    by_cases hl : q < s.sw.length <;> simp [hl, swOf]
  · simp [h, Ne.symm h]

@[simp] theorem length_hw_updHw (p : Port) (f : HwPort → HwPort) (s : State) :
    (updHw p f s).hw.length = s.hw.length := by
  simp [updHw]

@[simp] theorem length_sw_updSw (p : Port) (f : SwPort → SwPort) (s : State) :
    (updSw p f s).sw.length = s.sw.length := by
  simp [updSw]

/-- Two states with the same ports, parameters, globals and own fields are equal. -/
theorem state_ext {s t : State} (hlen : s.hw.length = t.hw.length) (slen : s.sw.length = t.sw.length)
    (hhw : ∀ p, hwOf s p = hwOf t p) (hsw : ∀ p, swOf s p = swOf t p)
    (hcfg : s.cfg = t.cfg) (hg : s.g = t.g) (hmain : s.main = t.main) (hirq : s.irq = t.irq)
    (hsp : s.spurious = t.spurious) (hret : s.ret = t.ret) (hdr : s.draws = t.draws) (hq : s.quantum = t.quantum)
    (hst : s.stream = t.stream) : s = t := by
  have h1 : s.hw = t.hw := by
    apply List.ext_getElem hlen
    intro i h₁ h₂
    simpa [hwOf, h₁, h₂] using hhw i
  have h2 : s.sw = t.sw := by
    apply List.ext_getElem slen
    intro i h₁ h₂
    simpa [swOf, h₁, h₂] using hsw i
  cases s
  cases t
  simp_all

/-! ### updHw -/

@[simp] theorem cfg_updHw (p : Port) (f : HwPort → HwPort) (s : State) : (updHw p f s).cfg = s.cfg := rfl
@[simp] theorem sw_updHw (p : Port) (f : HwPort → HwPort) (s : State) : (updHw p f s).sw = s.sw := rfl
@[simp] theorem g_updHw (p : Port) (f : HwPort → HwPort) (s : State) : (updHw p f s).g = s.g := rfl
@[simp] theorem main_updHw (p : Port) (f : HwPort → HwPort) (s : State) : (updHw p f s).main = s.main := rfl
@[simp] theorem irq_updHw (p : Port) (f : HwPort → HwPort) (s : State) : (updHw p f s).irq = s.irq := rfl
@[simp] theorem spurious_updHw (p : Port) (f : HwPort → HwPort) (s : State) : (updHw p f s).spurious = s.spurious := rfl
@[simp] theorem ret_updHw (p : Port) (f : HwPort → HwPort) (s : State) : (updHw p f s).ret = s.ret := rfl
@[simp] theorem draws_updHw (p : Port) (f : HwPort → HwPort) (s : State) : (updHw p f s).draws = s.draws := rfl
@[simp] theorem quantum_updHw (p : Port) (f : HwPort → HwPort) (s : State) : (updHw p f s).quantum = s.quantum := rfl
@[simp] theorem stream_updHw (p : Port) (f : HwPort → HwPort) (s : State) : (updHw p f s).stream = s.stream := rfl
@[simp] theorem swOf_updHw (p : Port) (f : HwPort → HwPort) (s : State) (q : Port) : swOf (updHw p f s) q = swOf s q := rfl

/-! ### updSw -/

@[simp] theorem cfg_updSw (p : Port) (f : SwPort → SwPort) (s : State) : (updSw p f s).cfg = s.cfg := rfl
@[simp] theorem hw_updSw (p : Port) (f : SwPort → SwPort) (s : State) : (updSw p f s).hw = s.hw := rfl
@[simp] theorem g_updSw (p : Port) (f : SwPort → SwPort) (s : State) : (updSw p f s).g = s.g := rfl
@[simp] theorem main_updSw (p : Port) (f : SwPort → SwPort) (s : State) : (updSw p f s).main = s.main := rfl
@[simp] theorem irq_updSw (p : Port) (f : SwPort → SwPort) (s : State) : (updSw p f s).irq = s.irq := rfl
@[simp] theorem spurious_updSw (p : Port) (f : SwPort → SwPort) (s : State) : (updSw p f s).spurious = s.spurious := rfl
@[simp] theorem ret_updSw (p : Port) (f : SwPort → SwPort) (s : State) : (updSw p f s).ret = s.ret := rfl
@[simp] theorem draws_updSw (p : Port) (f : SwPort → SwPort) (s : State) : (updSw p f s).draws = s.draws := rfl
@[simp] theorem quantum_updSw (p : Port) (f : SwPort → SwPort) (s : State) : (updSw p f s).quantum = s.quantum := rfl
@[simp] theorem stream_updSw (p : Port) (f : SwPort → SwPort) (s : State) : (updSw p f s).stream = s.stream := rfl
@[simp] theorem hwOf_updSw (p : Port) (f : SwPort → SwPort) (s : State) (q : Port) : hwOf (updSw p f s) q = hwOf s q := rfl

/-! ### observe -/

@[simp] theorem cfg_observe (o : Obs) (s : State) : (observe o s).cfg = s.cfg := rfl
@[simp] theorem hw_observe (o : Obs) (s : State) : (observe o s).hw = s.hw := rfl
@[simp] theorem sw_observe (o : Obs) (s : State) : (observe o s).sw = s.sw := rfl
@[simp] theorem main_observe (o : Obs) (s : State) : (observe o s).main = s.main := rfl
@[simp] theorem irq_observe (o : Obs) (s : State) : (observe o s).irq = s.irq := rfl
@[simp] theorem spurious_observe (o : Obs) (s : State) : (observe o s).spurious = s.spurious := rfl
@[simp] theorem ret_observe (o : Obs) (s : State) : (observe o s).ret = s.ret := rfl
@[simp] theorem draws_observe (o : Obs) (s : State) : (observe o s).draws = s.draws := rfl
@[simp] theorem quantum_observe (o : Obs) (s : State) : (observe o s).quantum = s.quantum := rfl
@[simp] theorem stream_observe (o : Obs) (s : State) : (observe o s).stream = s.stream := rfl
@[simp] theorem hwOf_observe (o : Obs) (s : State) (q : Port) : hwOf (observe o s) q = hwOf s q := rfl
@[simp] theorem swOf_observe (o : Obs) (s : State) (q : Port) : swOf (observe o s) q = swOf s q := rfl
@[simp] theorem g_evq_observe (o : Obs) (s : State) : (observe o s).g.evq = s.g.evq := rfl
@[simp] theorem g_fatal_observe (o : Obs) (s : State) : (observe o s).g.fatal = s.g.fatal := rfl
@[simp] theorem g_ctrUnknownIrq_observe (o : Obs) (s : State) : (observe o s).g.ctrUnknownIrq = s.g.ctrUnknownIrq := rfl
@[simp] theorem g_ctrError_observe (o : Obs) (s : State) : (observe o s).g.ctrError = s.g.ctrError := rfl
@[simp] theorem g_obs_observe (o : Obs) (s : State) : (observe o s).g.obs = s.g.obs ++ [o] := rfl

/-! ### setRet -/

@[simp] theorem cfg_setRet (r : Ret) (s : State) : (setRet r s).cfg = s.cfg := rfl
@[simp] theorem hw_setRet (r : Ret) (s : State) : (setRet r s).hw = s.hw := rfl
@[simp] theorem sw_setRet (r : Ret) (s : State) : (setRet r s).sw = s.sw := rfl
@[simp] theorem g_setRet (r : Ret) (s : State) : (setRet r s).g = s.g := rfl
@[simp] theorem main_setRet (r : Ret) (s : State) : (setRet r s).main = s.main := rfl
@[simp] theorem irq_setRet (r : Ret) (s : State) : (setRet r s).irq = s.irq := rfl
@[simp] theorem spurious_setRet (r : Ret) (s : State) : (setRet r s).spurious = s.spurious := rfl
@[simp] theorem draws_setRet (r : Ret) (s : State) : (setRet r s).draws = s.draws := rfl
@[simp] theorem quantum_setRet (r : Ret) (s : State) : (setRet r s).quantum = s.quantum := rfl
@[simp] theorem stream_setRet (r : Ret) (s : State) : (setRet r s).stream = s.stream := rfl
@[simp] theorem hwOf_setRet (r : Ret) (s : State) (q : Port) : hwOf (setRet r s) q = hwOf s q := rfl
@[simp] theorem swOf_setRet (r : Ret) (s : State) (q : Port) : swOf (setRet r s) q = swOf s q := rfl
@[simp] theorem ret_setRet (r : Ret) (s : State) : (setRet r s).ret = r := rfl

/-! ### The queue and the fatal latch -/

@[simp] theorem cfg_raiseFatal (s : State) : (raiseFatal s).cfg = s.cfg := rfl
@[simp] theorem hw_raiseFatal (s : State) : (raiseFatal s).hw = s.hw := rfl
@[simp] theorem sw_raiseFatal (s : State) : (raiseFatal s).sw = s.sw := rfl
@[simp] theorem main_raiseFatal (s : State) : (raiseFatal s).main = s.main := rfl
@[simp] theorem irq_raiseFatal (s : State) : (raiseFatal s).irq = s.irq := rfl
@[simp] theorem spurious_raiseFatal (s : State) : (raiseFatal s).spurious = s.spurious := rfl
@[simp] theorem ret_raiseFatal (s : State) : (raiseFatal s).ret = s.ret := rfl
@[simp] theorem draws_raiseFatal (s : State) : (raiseFatal s).draws = s.draws := rfl
@[simp] theorem quantum_raiseFatal (s : State) : (raiseFatal s).quantum = s.quantum := rfl
@[simp] theorem stream_raiseFatal (s : State) : (raiseFatal s).stream = s.stream := rfl
@[simp] theorem g_raiseFatal (s : State) : (raiseFatal s).g = { s.g with fatal := true } := rfl
@[simp] theorem hwOf_raiseFatal (s : State) (q : Port) : hwOf (raiseFatal s) q = hwOf s q := rfl
@[simp] theorem swOf_raiseFatal (s : State) (q : Port) : swOf (raiseFatal s) q = swOf s q := rfl
@[simp] theorem cfg_opEvqPop (s : State) : (opEvqPop s).cfg = s.cfg := rfl
@[simp] theorem hw_opEvqPop (s : State) : (opEvqPop s).hw = s.hw := rfl
@[simp] theorem sw_opEvqPop (s : State) : (opEvqPop s).sw = s.sw := rfl
@[simp] theorem main_opEvqPop (s : State) : (opEvqPop s).main = s.main := rfl
@[simp] theorem irq_opEvqPop (s : State) : (opEvqPop s).irq = s.irq := rfl
@[simp] theorem spurious_opEvqPop (s : State) : (opEvqPop s).spurious = s.spurious := rfl
@[simp] theorem ret_opEvqPop (s : State) : (opEvqPop s).ret = s.ret := rfl
@[simp] theorem draws_opEvqPop (s : State) : (opEvqPop s).draws = s.draws := rfl
@[simp] theorem quantum_opEvqPop (s : State) : (opEvqPop s).quantum = s.quantum := rfl
@[simp] theorem stream_opEvqPop (s : State) : (opEvqPop s).stream = s.stream := rfl
@[simp] theorem g_opEvqPop (s : State) : (opEvqPop s).g = { s.g with evq := s.g.evq.tail } := rfl
@[simp] theorem hwOf_opEvqPop (s : State) (q : Port) : hwOf (opEvqPop s) q = hwOf s q := rfl
@[simp] theorem swOf_opEvqPop (s : State) (q : Port) : swOf (opEvqPop s) q = swOf s q := rfl
@[simp] theorem cfg_opEvqPush (ev : Event) (s : State) : (opEvqPush ev s).cfg = s.cfg := by
  unfold opEvqPush
  split <;> rfl
@[simp] theorem hw_opEvqPush (ev : Event) (s : State) : (opEvqPush ev s).hw = s.hw := by
  unfold opEvqPush
  split <;> rfl
@[simp] theorem sw_opEvqPush (ev : Event) (s : State) : (opEvqPush ev s).sw = s.sw := by
  unfold opEvqPush
  split <;> rfl
@[simp] theorem main_opEvqPush (ev : Event) (s : State) : (opEvqPush ev s).main = s.main := by
  unfold opEvqPush
  split <;> rfl
@[simp] theorem irq_opEvqPush (ev : Event) (s : State) : (opEvqPush ev s).irq = s.irq := by
  unfold opEvqPush
  split <;> rfl
@[simp] theorem spurious_opEvqPush (ev : Event) (s : State) : (opEvqPush ev s).spurious = s.spurious := by
  unfold opEvqPush
  split <;> rfl
@[simp] theorem ret_opEvqPush (ev : Event) (s : State) : (opEvqPush ev s).ret = s.ret := by
  unfold opEvqPush
  split <;> rfl
@[simp] theorem draws_opEvqPush (ev : Event) (s : State) : (opEvqPush ev s).draws = s.draws := by
  unfold opEvqPush
  split <;> rfl
@[simp] theorem quantum_opEvqPush (ev : Event) (s : State) : (opEvqPush ev s).quantum = s.quantum := by
  unfold opEvqPush
  split <;> rfl
@[simp] theorem stream_opEvqPush (ev : Event) (s : State) : (opEvqPush ev s).stream = s.stream := by
  unfold opEvqPush
  split <;> rfl
@[simp] theorem hwOf_opEvqPush (ev : Event) (s : State) (q : Port) : hwOf (opEvqPush ev s) q = hwOf s q := by
  unfold opEvqPush
  split <;> rfl
@[simp] theorem swOf_opEvqPush (ev : Event) (s : State) (q : Port) : swOf (opEvqPush ev s) q = swOf s q := by
  unfold opEvqPush
  split <;> rfl
theorem g_opEvqPush (ev : Event) (s : State) : (opEvqPush ev s).g =
    if s.g.evq.length = s.cfg.evqCapacity then { s.g with fatal := true } else { s.g with evq := s.g.evq ++ [ev] } := by
  unfold opEvqPush
  split <;> rfl

/-! ### The model's own fields -/

@[simp] theorem hwOf_with_main (s : State) (x : List Task) (p : Port) : hwOf { s with main := x } p = hwOf s p := rfl
@[simp] theorem swOf_with_main (s : State) (x : List Task) (p : Port) : swOf { s with main := x } p = swOf s p := rfl
@[simp] theorem hwOf_with_irq (s : State) (x : List Task) (p : Port) : hwOf { s with irq := x } p = hwOf s p := rfl
@[simp] theorem swOf_with_irq (s : State) (x : List Task) (p : Port) : swOf { s with irq := x } p = swOf s p := rfl
@[simp] theorem hwOf_with_spurious (s : State) (x : Option Nat) (p : Port) : hwOf { s with spurious := x } p = hwOf s p := rfl
@[simp] theorem swOf_with_spurious (s : State) (x : Option Nat) (p : Port) : swOf { s with spurious := x } p = swOf s p := rfl
@[simp] theorem hwOf_with_draws (s : State) (x : Nat) (p : Port) : hwOf { s with draws := x } p = hwOf s p := rfl
@[simp] theorem swOf_with_draws (s : State) (x : Nat) (p : Port) : swOf { s with draws := x } p = swOf s p := rfl
@[simp] theorem hwOf_with_quantum (s : State) (x : Option Nat) (p : Port) : hwOf { s with quantum := x } p = hwOf s p := rfl
@[simp] theorem swOf_with_quantum (s : State) (x : Option Nat) (p : Port) : swOf { s with quantum := x } p = swOf s p := rfl
@[simp] theorem hwOf_with_stream (s : State) (x : List Stimulus) (p : Port) : hwOf { s with stream := x } p = hwOf s p := rfl
@[simp] theorem swOf_with_stream (s : State) (x : List Stimulus) (p : Port) : swOf { s with stream := x } p = swOf s p := rfl
@[simp] theorem hwOf_with_g (s : State) (x : Global) (p : Port) : hwOf { s with g := x } p = hwOf s p := rfl
@[simp] theorem swOf_with_g (s : State) (x : Global) (p : Port) : swOf { s with g := x } p = swOf s p := rfl

/-! ## Normal form: the trace outermost, then HW, then SW; one update a port -/

theorem updSw_observe (p : Port) (f : SwPort → SwPort) (o : Obs) (s : State) :
    updSw p f (observe o s) = observe o (updSw p f s) := rfl
theorem updHw_observe (p : Port) (f : HwPort → HwPort) (o : Obs) (s : State) :
    updHw p f (observe o s) = observe o (updHw p f s) := rfl
theorem updSw_updHw (p q : Port) (f : SwPort → SwPort) (g : HwPort → HwPort) (s : State) :
    updSw p f (updHw q g s) = updHw q g (updSw p f s) := rfl
theorem updHw_updHw (p : Port) (f g : HwPort → HwPort) (s : State) :
    updHw p f (updHw p g s) = updHw p (fun h => f (g h)) s := by
  apply state_ext (by simp) (by simp)
  · intro q
    by_cases hq : q = p ∧ p < s.hw.length <;> simp [hq]
  · intro q
    rfl
  all_goals rfl
theorem updSw_updSw (p : Port) (f g : SwPort → SwPort) (s : State) :
    updSw p f (updSw p g s) = updSw p (fun u => f (g u)) s := by
  apply state_ext (by simp) (by simp)
  · intro q
    rfl
  · intro q
    by_cases hq : q = p ∧ p < s.sw.length <;> simp [hq]
  all_goals rfl

/-- An update counts by what it makes of its port. -/
theorem updHw_congr {p : Port} {f g : HwPort → HwPort} {s : State} (h : f (hwOf s p) = g (hwOf s p)) :
    updHw p f s = updHw p g s := by
  unfold updHw
  rw [h]
theorem updSw_congr {p : Port} {f g : SwPort → SwPort} {s : State} (h : f (swOf s p) = g (swOf s p)) :
    updSw p f s = updSw p g s := by
  unfold updSw
  rw [h]
/-- An update that changes nothing of its port changes nothing. -/
theorem updHw_id {p : Port} {f : HwPort → HwPort} {s : State} (h : f (hwOf s p) = hwOf s p) : updHw p f s = s := by
  apply state_ext (by simp) (by simp)
  · intro q
    rw [hwOf_updHw]
    split
    · next hq => rw [h, hq.1]
    · rfl
  · intro q
    rfl
  all_goals rfl
theorem updSw_id {p : Port} {f : SwPort → SwPort} {s : State} (h : f (swOf s p) = swOf s p) : updSw p f s = s := by
  apply state_ext (by simp) (by simp)
  · intro q
    rfl
  · intro q
    rw [swOf_updSw]
    split
    · next hq => rw [h, hq.1]
    · rfl
  all_goals rfl

/-- An update reaches the port it names, if there is one (10_state.md R20). -/
theorem hwOf_updHw_self {p : Port} {f : HwPort → HwPort} {s : State} (h : p < s.hw.length) :
    hwOf (updHw p f s) p = f (hwOf s p) := by
  simp [h]
theorem swOf_updSw_self {p : Port} {f : SwPort → SwPort} {s : State} (h : p < s.sw.length) :
    swOf (updSw p f s) p = f (swOf s p) := by
  simp [h]
/-- What stands for a port that does not exist (log 34). -/
theorem hwOf_absent {p : Port} {s : State} (h : s.hw.length ≤ p) : hwOf s p = HwPort.reset p := by
  simp [hwOf, h]
theorem swOf_absent {p : Port} {s : State} (h : s.sw.length ≤ p) : swOf s p = SwPort.reset := by
  simp [swOf, h]

end Sys2Proof.Machine
end

