-- ==== Sys2Proof/Laws/Ops.lean ====
section
/-! SUPPORT. What the shared operations can do, said once each: `Touches p s t` (only port p, the trace, `ret` and `draws`
differ) and `Inv` (10_state.md R41 a to c) for every operation on registers, FIFOs, counters and the queue. -/

namespace Sys2Proof.Machine

/-- Between `s` and `t` only port `p`, the trace (which only grows), `ret` and `draws` may differ. -/
structure Touches (p : Port) (s t : State) : Prop where
  hw : ∀ q, q ≠ p → hwOf t q = hwOf s q
  sw : ∀ q, q ≠ p → swOf t q = swOf s q
  hwLength : t.hw.length = s.hw.length
  swLength : t.sw.length = s.sw.length
  cfg : t.cfg = s.cfg
  evq : t.g.evq = s.g.evq
  fatal : t.g.fatal = s.g.fatal
  unknownIrq : t.g.ctrUnknownIrq = s.g.ctrUnknownIrq
  error : t.g.ctrError = s.g.ctrError
  obs : s.g.obs <+: t.g.obs
  main : t.main = s.main
  irq : t.irq = s.irq
  spurious : t.spurious = s.spurious
  quantum : t.quantum = s.quantum
  stream : t.stream = s.stream

namespace Touches

theorem refl (p : Port) (s : State) : Touches p s s := by
  constructor <;> simp

theorem trans {p : Port} {s t u : State} (h : Touches p s t) (h' : Touches p t u) : Touches p s u where
  hw q hq := (h'.hw q hq).trans (h.hw q hq)
  sw q hq := (h'.sw q hq).trans (h.sw q hq)
  hwLength := h'.hwLength.trans h.hwLength
  swLength := h'.swLength.trans h.swLength
  cfg := h'.cfg.trans h.cfg
  evq := h'.evq.trans h.evq
  fatal := h'.fatal.trans h.fatal
  unknownIrq := h'.unknownIrq.trans h.unknownIrq
  error := h'.error.trans h.error
  obs := h.obs.trans h'.obs
  main := h'.main.trans h.main
  irq := h'.irq.trans h.irq
  spurious := h'.spurious.trans h.spurious
  quantum := h'.quantum.trans h.quantum
  stream := h'.stream.trans h.stream

theorem updHw (p : Port) (f : HwPort → HwPort) (s : State) : Touches p s (updHw p f s) := by
  constructor <;> simp +contextual

theorem updSw (p : Port) (f : SwPort → SwPort) (s : State) : Touches p s (updSw p f s) := by
  constructor <;> simp +contextual

theorem observe (p : Port) (o : Obs) (s : State) : Touches p s (observe o s) := by
  constructor <;> simp

theorem setRet (p : Port) (r : Ret) (s : State) : Touches p s (setRet r s) := by
  constructor <;> simp

theorem draw (p : Port) (s : State) (n : Nat) : Touches p s { s with draws := n } := by
  constructor <;> simp

end Touches

/-! ## The register-layer operations touch their port only -/

theorem touches_opEnableInterrupt (p : Port) (src : Source) (s : State) : Touches p s (opEnableInterrupt p src s) :=
  .updHw ..
theorem touches_opDisableInterrupt (p : Port) (src : Source) (s : State) : Touches p s (opDisableInterrupt p src s) :=
  .updHw ..
theorem touches_opClearPending (p : Port) (src : Source) (s : State) : Touches p s (opClearPending p src s) := .updHw ..
theorem touches_opConnect (p : Port) (sp : Speed) (s : State) : Touches p s (opConnect p sp s) :=
  (Touches.updHw ..).trans (.observe ..)
theorem touches_opConnectDrawn (p : Port) (s : State) : Touches p s (opConnectDrawn p s) :=
  (Touches.draw ..).trans (touches_opConnect ..)
theorem touches_opDropLine (p : Port) (s : State) : Touches p s (opDropLine p s) := (Touches.updHw ..).trans (.observe ..)
theorem touches_opResetFifo (p : Port) (g : FifoGroup) (s : State) : Touches p s (opResetFifo p g s) :=
  (Touches.updHw ..).trans (.observe ..)
theorem touches_opSetAddress (p : Port) (a : DevAddr) (s : State) : Touches p s (opSetAddress p a s) :=
  (Touches.updHw ..).trans (.observe ..)
theorem touches_opStall (p : Port) (d : Dir) (e : EpNo) (s : State) : Touches p s (opStall p d e s) :=
  (Touches.updHw ..).trans (.observe ..)
theorem touches_opUnstall (p : Port) (d : Dir) (e : EpNo) (s : State) : Touches p s (opUnstall p d e s) :=
  (Touches.updHw ..).trans (.observe ..)
theorem touches_opClearHalt (p : Port) (ea : Byte) (s : State) : Touches p s (opClearHalt p ea s) :=
  (Touches.updHw ..).trans (.observe ..)
theorem touches_drawIfEmpty (p : Port) (fifo : List Byte) (s : State) : Touches p s (drawIfEmpty fifo s) := by
  unfold drawIfEmpty
  split
  · exact .draw ..
  · exact .refl ..
theorem touches_opOutPopByte (p : Port) (s : State) : Touches p s (opOutPopByte p s) :=
  (touches_drawIfEmpty ..).trans (.updHw ..)
theorem touches_opCtrlPopByte (p : Port) (s : State) : Touches p s (opCtrlPopByte p s) :=
  (touches_drawIfEmpty ..).trans (.updHw ..)
theorem touches_opOutPrime (p : Port) (e : EpNo) (s : State) : Touches p s (opOutPrime p e s) :=
  (Touches.updHw ..).trans (.observe ..)
theorem touches_opInPushByte (p : Port) (b : Byte) (s : State) : Touches p s (opInPushByte p b s) := by
  unfold opInPushByte
  split
  · exact .updHw ..
  · exact .updSw ..
theorem touches_opInCommit (p : Port) (e : EpNo) (s : State) : Touches p s (opInCommit p e s) :=
  (Touches.updHw ..).trans (.observe ..)
theorem touches_swWrite (p : Port) (w : SwWrite) (s : State) : Touches p s (swWrite p w s) := .updSw ..
theorem touches_latchSetup (p : Port) (x : SetupBytes) (s : State) : Touches p s (latchSetup p x s) := .updSw ..
theorem touches_logPort (p : Port) (k : PortLogged) (s : State) : Touches p s (logPort p k s) := .updSw ..
theorem touches_logReadOverflow (p : Port) (n : Nat) (s : State) : Touches p s (logReadOverflow p n s) := .updSw ..

/-! ## The bus agent's moves touch their port only -/

theorem touches_hostBusResetMove (p : Port) (sp : Speed) (s : State) : Touches p s (hostBusResetMove p sp s) :=
  (Touches.updHw ..).trans (.observe ..)
theorem touches_hostSetupMove (p : Port) (e : EpNo) (bytes : List Byte) (s : State) :
    Touches p s (hostSetupMove p e bytes s) := (Touches.updHw ..).trans (.observe ..)
theorem touches_hostOutMove (p : Port) (e : EpNo) (bytes : List Byte) (s : State) :
    Touches p s (hostOutMove p e bytes s) := (Touches.updHw ..).trans (.observe ..)
theorem touches_hostInMove (p : Port) (e : EpNo) (s : State) : Touches p s (hostInMove p e s) :=
  (Touches.observe ..).trans (.updHw ..)

/-! ## Inv, port by port -/

/-- R41 (a) and (b) for one port. -/
structure HwOk (c : Params) (h : HwPort) : Prop where
  address : h.epcAddress = h.outAddress
  epc : h.epcFifo.length ≤ c.ctrlFifoDepth
  inp : h.inFifo.length ≤ c.inFifoDepth
  out : h.outFifo.length ≤ c.outFifoDepth

theorem inv_iff (s : State) : Inv s ↔ (∀ p, HwOk s.cfg (hwOf s p)) ∧ QueueFits s ∧ Sized s := by
  constructor
  · intro h
    exact ⟨fun p => ⟨h.addresses p, (h.fifos p).1, (h.fifos p).2.1, (h.fifos p).2.2⟩, h.queue, h.sized⟩
  · rintro ⟨h, hq, hs⟩
    exact ⟨fun p => (h p).address, fun p => ⟨(h p).epc, (h p).inp, (h p).out⟩, hq, hs⟩

/-- Sized depends on the numbers of ports and the parameters only. -/
theorem sized_congr {s t : State} (h : Sized s) (hhw : t.hw.length = s.hw.length) (hsw : t.sw.length = s.sw.length)
    (hcfg : t.cfg = s.cfg) : Sized t :=
  ⟨by rw [hhw, hcfg]; exact h.hw, by rw [hsw, hcfg]; exact h.sw, by rw [hcfg]; exact h.cfg⟩

/-- Inv depends on the ports' hardware, the number of ports, the parameters and the queue only. -/
theorem inv_congr {s t : State} (h : Inv s) (hhw : t.hw = s.hw) (hsw : t.sw.length = s.sw.length) (hcfg : t.cfg = s.cfg)
    (hq : t.g.evq = s.g.evq) : Inv t := by
  rw [inv_iff] at h ⊢
  refine ⟨fun p => ?_, ?_, sized_congr h.2.2 (by rw [hhw]) hsw hcfg⟩
  · rw [show hwOf t p = hwOf s p by unfold hwOf; rw [hhw], hcfg]
    exact h.1 p
  · unfold QueueFits
    rw [hq, hcfg]
    exact h.2.1

theorem inv_updHw {p : Port} {f : HwPort → HwPort} {s : State}
    (hf : HwOk s.cfg (hwOf s p) → HwOk s.cfg (f (hwOf s p))) (h : Inv s) : Inv (updHw p f s) := by
  rw [inv_iff] at h ⊢
  refine ⟨fun q => ?_, h.2.1, sized_congr h.2.2 (by simp) rfl rfl⟩
  rw [hwOf_updHw]
  split
  · exact hf (h.1 p)
  · exact h.1 q

theorem inv_updSw {p : Port} {f : SwPort → SwPort} {s : State} (h : Inv s) : Inv (updSw p f s) :=
  inv_congr h rfl (by simp) rfl rfl
theorem inv_observe {o : Obs} {s : State} (h : Inv s) : Inv (observe o s) := inv_congr h rfl rfl rfl rfl
theorem inv_setRet {r : Ret} {s : State} (h : Inv s) : Inv (setRet r s) := inv_congr h rfl rfl rfl rfl
theorem inv_draw {n : Nat} {s : State} (h : Inv s) : Inv { s with draws := n } := inv_congr h rfl rfl rfl rfl

@[simp] theorem length_pushBytes (depth : Nat) (fifo bytes : List Byte) :
    (pushBytes depth fifo bytes).length = fifo.length + min (depth - fifo.length) bytes.length := by
  simp [pushBytes]

theorem pushBytes_fits {depth : Nat} {fifo bytes : List Byte} (h : fifo.length ≤ depth) :
    (pushBytes depth fifo bytes).length ≤ depth := by
  rw [length_pushBytes]
  omega

theorem hwOk_setStallBit {c : Params} {h : HwPort} (d : Dir) (e : EpNo) (v : Bool) (hk : HwOk c h) :
    HwOk c (setStallBit h d e v) := by
  cases d <;> exact ⟨hk.address, hk.epc, hk.inp, hk.out⟩

theorem hwOk_setPidBit {c : Params} {h : HwPort} (d : Dir) (e : EpNo) (v : Bool) (hk : HwOk c h) :
    HwOk c (setPidBit h d e v) := by
  cases d <;> exact ⟨hk.address, hk.epc, hk.inp, hk.out⟩

/-! ## Every operation keeps Inv -/

theorem inv_opEnableInterrupt {p : Port} {src : Source} {s : State} (h : Inv s) : Inv (opEnableInterrupt p src s) :=
  inv_updHw (fun k => ⟨k.address, k.epc, k.inp, k.out⟩) h
theorem inv_opDisableInterrupt {p : Port} {src : Source} {s : State} (h : Inv s) : Inv (opDisableInterrupt p src s) :=
  inv_updHw (fun k => ⟨k.address, k.epc, k.inp, k.out⟩) h
theorem inv_opClearPending {p : Port} {src : Source} {s : State} (h : Inv s) : Inv (opClearPending p src s) :=
  inv_updHw (fun k => ⟨k.address, k.epc, k.inp, k.out⟩) h
theorem inv_opConnect {p : Port} {sp : Speed} {s : State} (h : Inv s) : Inv (opConnect p sp s) :=
  inv_observe (inv_updHw (fun k => ⟨k.address, k.epc, k.inp, k.out⟩) h)
theorem inv_opConnectDrawn {p : Port} {s : State} (h : Inv s) : Inv (opConnectDrawn p s) := inv_opConnect (inv_draw h)
theorem inv_opDropLine {p : Port} {s : State} (h : Inv s) : Inv (opDropLine p s) :=
  inv_observe (inv_updHw (fun k => ⟨k.address, k.epc, k.inp, k.out⟩) h)
theorem inv_opResetFifo {p : Port} {g : FifoGroup} {s : State} (h : Inv s) : Inv (opResetFifo p g s) := by
  refine inv_observe (inv_updHw (fun k => ?_) h)
  cases g
  · exact ⟨k.address, Nat.zero_le _, k.inp, k.out⟩
  · exact ⟨k.address, k.epc, Nat.zero_le _, k.out⟩
  · exact ⟨k.address, k.epc, k.inp, Nat.zero_le _⟩
theorem inv_opSetAddress {p : Port} {a : DevAddr} {s : State} (h : Inv s) : Inv (opSetAddress p a s) :=
  inv_observe (inv_updHw (fun k => ⟨rfl, k.epc, k.inp, k.out⟩) h)
theorem inv_opStall {p : Port} {d : Dir} {e : EpNo} {s : State} (h : Inv s) : Inv (opStall p d e s) :=
  inv_observe (inv_updHw (hwOk_setStallBit d e _) h)
theorem inv_opUnstall {p : Port} {d : Dir} {e : EpNo} {s : State} (h : Inv s) : Inv (opUnstall p d e s) :=
  inv_observe (inv_updHw (hwOk_setStallBit d e false) h)
theorem inv_opClearHalt {p : Port} {ea : Byte} {s : State} (h : Inv s) : Inv (opClearHalt p ea s) :=
  inv_observe (inv_updHw (hwOk_setPidBit _ _ false) h)
theorem inv_drawIfEmpty {fifo : List Byte} {s : State} (h : Inv s) : Inv (drawIfEmpty fifo s) := by
  unfold drawIfEmpty
  split
  · exact inv_draw h
  · exact h
theorem inv_opOutPopByte {p : Port} {s : State} (h : Inv s) : Inv (opOutPopByte p s) := by
  refine inv_updHw (fun k => ⟨k.address, k.epc, k.inp, ?_⟩) (inv_drawIfEmpty h)
  have := k.out
  simp only [List.length_tail]
  omega
theorem inv_opCtrlPopByte {p : Port} {s : State} (h : Inv s) : Inv (opCtrlPopByte p s) := by
  refine inv_updHw (fun k => ⟨k.address, ?_, k.inp, k.out⟩) (inv_drawIfEmpty h)
  have := k.epc
  simp only [List.length_tail]
  omega
theorem inv_opOutPrime {p : Port} {e : EpNo} {s : State} (h : Inv s) : Inv (opOutPrime p e s) :=
  inv_observe (inv_updHw (fun k => ⟨k.address, k.epc, k.inp, k.out⟩) h)
theorem inv_opInPushByte {p : Port} {b : Byte} {s : State} (h : Inv s) : Inv (opInPushByte p b s) := by
  unfold opInPushByte
  split
  · next hlt =>
    refine inv_updHw (fun k => ⟨k.address, k.epc, ?_, k.out⟩) h
    simp only [List.length_append, List.length_cons, List.length_nil]
    omega
  · exact inv_updSw h
theorem inv_opInCommit {p : Port} {e : EpNo} {s : State} (h : Inv s) : Inv (opInCommit p e s) :=
  inv_observe (inv_updHw (fun k => ⟨k.address, k.epc, k.inp, k.out⟩) h)
theorem inv_swWrite {p : Port} {w : SwWrite} {s : State} (h : Inv s) : Inv (swWrite p w s) := inv_updSw h
theorem inv_latchSetup {p : Port} {x : SetupBytes} {s : State} (h : Inv s) : Inv (latchSetup p x s) := inv_updSw h
theorem inv_logPort {p : Port} {k : PortLogged} {s : State} (h : Inv s) : Inv (logPort p k s) := inv_updSw h
theorem inv_logReadOverflow {p : Port} {n : Nat} {s : State} (h : Inv s) : Inv (logReadOverflow p n s) := inv_updSw h

theorem inv_hostBusResetMove {p : Port} {sp : Speed} {s : State} (h : Inv s) : Inv (hostBusResetMove p sp s) :=
  inv_observe (inv_updHw (fun k => ⟨k.address, k.epc, k.inp, k.out⟩) h)
theorem inv_hostSetupMove {p : Port} {e : EpNo} {bytes : List Byte} {s : State} (h : Inv s) :
    Inv (hostSetupMove p e bytes s) := by
  refine inv_observe (inv_updHw (fun k => ?_) h)
  have hk : HwOk s.cfg { hwOf s p with
      epcFifo := pushBytes s.cfg.ctrlFifoDepth (hwOf s p).epcFifo bytes, epcEpno := e,
      pend := setSrcBit (hwOf s p).pend .epc true } := ⟨k.address, pushBytes_fits k.epc, k.inp, k.out⟩
  unfold endStall
  split
  · exact hwOk_setStallBit _ _ _ (hwOk_setStallBit _ _ _ hk)
  · exact hk
theorem inv_hostOutMove {p : Port} {e : EpNo} {bytes : List Byte} {s : State} (h : Inv s) :
    Inv (hostOutMove p e bytes s) :=
  inv_observe (inv_updHw (fun k => hwOk_setPidBit _ _ _ ⟨k.address, k.epc, k.inp, pushBytes_fits k.out⟩) h)
theorem inv_hostInMove {p : Port} {e : EpNo} {s : State} (h : Inv s) : Inv (hostInMove p e s) :=
  inv_updHw (fun k => hwOk_setPidBit _ _ _ ⟨k.address, k.epc, Nat.zero_le _, k.out⟩) (inv_observe h)

theorem inv_opEvqPush {ev : Event} {s : State} (h : Inv s) : Inv (opEvqPush ev s) := by
  unfold opEvqPush
  split
  · exact inv_congr h rfl rfl rfl rfl
  · next hne =>
    rw [inv_iff] at h ⊢
    refine ⟨h.1, ?_, sized_congr h.2.2 rfl rfl rfl⟩
    have hq := h.2.1
    unfold QueueFits at hq ⊢
    simp only [List.length_append, List.length_cons, List.length_nil]
    omega
theorem inv_opEvqPop {s : State} (h : Inv s) : Inv (opEvqPop s) := by
  rw [inv_iff] at h ⊢
  refine ⟨h.1, ?_, sized_congr h.2.2 rfl rfl rfl⟩
  have hq := h.2.1
  unfold QueueFits at hq ⊢
  simp only [opEvqPop, List.length_tail]
  omega

end Sys2Proof.Machine
end

