-- ==== Sys2Proof/Laws/Run.lean ====
section
/-! SUPPORT. Turns, said once: `Reaches k ts s ts' s'` says that an agent with the work `ts` in state `s` comes, after `k`
steps none of which waits, to the work `ts'` in state `s'`. Steps are chained with `trans` and `one`; `run` turns a
chain into a turn's result. `runTasks_induct` carries a property through any turn. -/

namespace Sys2Proof.Machine

@[simp] theorem runTasks_nil (n : Nat) (s : State) : runTasks n [] s = ([], s) := by
  cases n <;> rfl

@[simp] theorem runTasks_zero (ts : List Task) (s : State) : runTasks 0 ts s = (ts, s) := rfl

theorem runTasks_goOn {t : Task} {s : State} (h : (taskStep t s).waits = false) (n : Nat) (ts : List Task) :
    runTasks (n + 1) (t :: ts) s = runTasks n ((taskStep t s).next ++ ts) (taskStep t s).state := by
  simp [runTasks, h]

theorem runTasks_waits {t : Task} {s : State} (h : (taskStep t s).waits = true) (n : Nat) (ts : List Task) :
    runTasks (n + 1) (t :: ts) s = ((taskStep t s).next ++ ts, (taskStep t s).state) := by
  simp [runTasks, h]

/-- After `k` steps the work `ts` has become `ts'` and the state `s'`, whatever work stands behind it. -/
def Reaches (k : Nat) (ts : List Task) (s : State) (ts' : List Task) (s' : State) : Prop :=
  ∀ (n : Nat) (rest : List Task), runTasks (n + k) (ts ++ rest) s = runTasks n (ts' ++ rest) s'

namespace Reaches

theorem refl (ts : List Task) (s : State) : Reaches 0 ts s ts s := fun _ _ => rfl

theorem trans {j k : Nat} {ts ts' ts'' : List Task} {s s' s'' : State} (h : Reaches j ts s ts' s')
    (h' : Reaches k ts' s' ts'' s'') : Reaches (j + k) ts s ts'' s'' := by
  intro n rest
  rw [show n + (j + k) = (n + k) + j by omega, h, h']

/-- Work that stands behind stays behind. -/
theorem frame {k : Nat} {ts ts' : List Task} {s s' : State} (h : Reaches k ts s ts' s') (more : List Task) :
    Reaches k (ts ++ more) s (ts' ++ more) s' := by
  intro n rest
  rw [List.append_assoc, List.append_assoc]
  exact h n (more ++ rest)

/-- One step that does not wait. -/
theorem one {t : Task} {s : State} (h : (taskStep t s).waits = false) :
    Reaches 1 [t] s (taskStep t s).next (taskStep t s).state := by
  intro n rest
  exact runTasks_goOn h n rest

/-- One step whose result is known. -/
theorem step {t : Task} {s s' : State} {next : List Task} (h : taskStep t s = goOn next s') :
    Reaches 1 [t] s next s' := by
  have h' := one (t := t) (s := s) (by rw [h]; rfl)
  rw [h] at h'
  exact h'

/-- One step at the head of more work. -/
theorem head {t : Task} {s s' : State} {next ts : List Task} (h : taskStep t s = goOn next s') :
    Reaches 1 (t :: ts) s (next ++ ts) s' := (step h).frame ts

/-- Two pieces of work, one behind the other, each done to its end. -/
theorem seq {j k : Nat} {ts us : List Task} {s s' s'' : State} (h : Reaches j ts s [] s') (h' : Reaches k us s' [] s'') :
    Reaches (j + k) (ts ++ us) s [] s'' := (h.frame us).trans h'

/-- A step, then the rest of the work to its end. -/
theorem cons {k : Nat} {t : Task} {ts next : List Task} {s s' s'' : State} (h : taskStep t s = goOn next s')
    (h' : Reaches k (next ++ ts) s' [] s'') : Reaches (k + 1) (t :: ts) s [] s'' := by
  rw [Nat.add_comm]
  exact (head h).trans h'

/-- A chain to the end of the work is the result of a turn that is long enough. -/
theorem run {k n : Nat} {ts : List Task} {s s' : State} (h : Reaches k ts s [] s') (hn : k ≤ n) :
    runTasks n ts s = ([], s') := by
  have h' := h (n - k) []
  rw [Nat.sub_add_cancel hn] at h'
  simpa using h'

end Reaches

/-- A property of the state that every step keeps is kept by a turn; `Q` restricts the work. -/
theorem runTasks_induct {P : State → Prop} {Q : Task → Prop}
    (hstep : ∀ t s, Q t → P s → (∀ u ∈ (taskStep t s).next, Q u) ∧ P (taskStep t s).state) :
    ∀ (n : Nat) (ts : List Task) (s : State), (∀ u ∈ ts, Q u) → P s →
      (∀ u ∈ (runTasks n ts s).1, Q u) ∧ P (runTasks n ts s).2
  | 0, _, _, hts, hs => ⟨hts, hs⟩
  | n + 1, [], s, _, hs => by simpa using hs
  | n + 1, t :: ts, s, hts, hs => by
    obtain ⟨hn, hp⟩ := hstep t s (hts t (by simp)) hs
    have hall : ∀ u ∈ (taskStep t s).next ++ ts, Q u := by
      intro u hu
      rcases List.mem_append.1 hu with h | h
      · exact hn u h
      · exact hts u (by simp [h])
    cases hw : (taskStep t s).waits with
    | true =>
      rw [runTasks_waits hw]
      exact ⟨hall, hp⟩
    | false =>
      rw [runTasks_goOn hw]
      exact runTasks_induct hstep n _ _ hall hp

/-- A property that every step keeps, whatever the work, is kept by a turn. -/
theorem runTasks_keeps {P : State → Prop} (hstep : ∀ t s, P s → P (taskStep t s).state) (n : Nat) (ts : List Task)
    (s : State) (hs : P s) : P (runTasks n ts s).2 :=
  (runTasks_induct (Q := fun _ => True) (fun t s _ h => ⟨fun _ _ => trivial, hstep t s h⟩) n ts s (fun _ _ => trivial)
    hs).2

/-- Two turns of an agent that was suspended because its turn was over, and that nobody disturbed in between, are one turn
of their joint length, where the first turn does not wait (log 2). -/
theorem runTasks_add (n m : Nat) (ts : List Task) (s : State) (h : ∀ k ts' s', k < n → Reaches k ts s ts' s' →
    ∀ t rest, ts' = t :: rest → (taskStep t s').waits = false) :
    runTasks (n + m) ts s = runTasks m (runTasks n ts s).1 (runTasks n ts s).2 := by
  induction n generalizing ts s with
  | zero => simp
  | succ n ih =>
    cases ts with
    | nil => simp
    | cons t ts =>
      have hw := h 0 (t :: ts) s (by omega) (Reaches.refl _ _) t ts rfl
      rw [show n + 1 + m = (n + m) + 1 by omega, runTasks_goOn hw, runTasks_goOn hw]
      refine ih _ _ ?_
      intro k ts' s' hk hr
      refine h (k + 1) ts' s' (by omega) ?_
      rw [Nat.add_comm]
      exact ((Reaches.one hw).frame ts).trans hr

end Sys2Proof.Machine
end

