-- ==== Sys2Proof/Laws/Tasks.lean ====
section
/-! SUPPORT. What one step of an agent can do, said once: `taskStep_touches` for the work of a port's main context,
`taskStep_keeps` for every step, `taskStep_inv` for Inv; and the same of a whole turn. -/

namespace Sys2Proof.Machine

/-- All the work is on one port. -/
def OnPort (p : Port) (ts : List Task) : Prop := ∀ u ∈ ts, taskPort u = some p

@[simp] theorem onPort_nil (p : Port) : OnPort p [] := by simp [OnPort]
@[simp] theorem onPort_cons (p : Port) (t : Task) (ts : List Task) :
    OnPort p (t :: ts) ↔ taskPort t = some p ∧ OnPort p ts := by simp [OnPort]
@[simp] theorem onPort_append (p : Port) (ts us : List Task) : OnPort p (ts ++ us) ↔ OnPort p ts ∧ OnPort p us := by
  simp only [OnPort, List.mem_append]
  exact ⟨fun h => ⟨fun u hu => h u (.inl hu), fun u hu => h u (.inr hu)⟩,
    fun h u hu => hu.elim (h.1 u) (h.2 u)⟩
@[simp] theorem onPort_map_call (p : Port) (ops : List PortOp) : OnPort p (ops.map (Task.call p)) := by
  intro u hu
  obtain ⟨o, _, rfl⟩ := List.mem_map.1 hu
  rfl

/-! ## The work that a handler chooses stays on its port -/

theorem onPort_runHookTasks (p : Port) (s : State) (kind : HookKind) (k : Byte) (data : List Byte) :
    OnPort p (runHookTasks p s kind k data) := by
  unfold runHookTasks
  repeat' split
  all_goals simp [taskPort]

theorem onPort_runTypeHookTasks (p : Port) (s : State) (data : List Byte) : OnPort p (runTypeHookTasks p s data) := by
  unfold runTypeHookTasks
  split <;> simp [taskPort]

theorem onPort_requestTasks (p : Port) (s : State) (h : Handler) : OnPort p (requestTasks p s h) := by
  cases h <;> simp only [requestTasks]
  case getStatus => unfold reqGetStatusTasks; dsimp only; repeat' split
                    all_goals simp [taskPort]
  case clearFeature => unfold reqClearFeatureTasks; dsimp only; repeat' split
                       all_goals simp [taskPort]
  case reserved => simp [reqReservedTasks, taskPort]
  case setFeature => unfold reqSetFeatureTasks; dsimp only; repeat' split
                     all_goals simp [taskPort]
  case setAddress => unfold reqSetAddressTasks; dsimp only; repeat' split
                     all_goals simp [taskPort]
  case getDescriptor => unfold reqGetDescriptorTasks tableReply; dsimp only; repeat' split
                        all_goals simp [taskPort]
  case setDescriptor => simp [reqSetDescriptorTasks, taskPort]
  case getConfiguration => unfold reqGetConfigurationTasks; dsimp only; repeat' split
                           all_goals simp [taskPort]
  case setConfiguration => unfold reqSetConfigurationTasks; dsimp only; repeat' split
                           all_goals simp [taskPort]
  case getInterface => unfold reqGetInterfaceTasks; dsimp only; repeat' split
                       all_goals simp [taskPort]
  case setInterface => unfold reqSetInterfaceTasks; dsimp only; repeat' split
                       all_goals simp [taskPort]
  case synchFrame => simp [reqSynchFrameTasks, taskPort]
  case classOrVendor => unfold reqClassOrVendorTasks; dsimp only; repeat' split
                        all_goals simp [taskPort, onPort_runTypeHookTasks]

theorem touches_callStep (p : Port) (o : PortOp) (s : State) :
    Touches p s (callStep p o s).state ∧ OnPort p (callStep p o s).next := by
  cases o <;> refine ⟨?_, by simp [callStep, goOn, disconnectTasks, taskPort]⟩
  case enableInterrupt => exact touches_opEnableInterrupt ..
  case disableInterrupt => exact touches_opDisableInterrupt ..
  case clearPending => exact touches_opClearPending ..
  case connect => exact touches_opConnectDrawn ..
  case resetFifo => exact touches_opResetFifo ..
  case setAddress => exact touches_opSetAddress ..
  case stallIn => exact touches_opStall ..
  case stallOut => exact touches_opStall ..
  case unstallIn => exact touches_opUnstall ..
  case unstallOut => exact touches_opUnstall ..
  case clearHalt => exact touches_opClearHalt ..
  case outPopByte => exact touches_opOutPopByte ..
  case ctrlPopByte => exact touches_opCtrlPopByte ..
  case outPrime => exact touches_opOutPrime ..
  case inPushByte => exact touches_opInPushByte ..
  case inCommit => exact touches_opInCommit ..
  all_goals exact Touches.refl ..

theorem inv_callStep (p : Port) (o : PortOp) (s : State) (h : Inv s) : Inv (callStep p o s).state := by
  cases o
  case enableInterrupt => exact inv_opEnableInterrupt h
  case disableInterrupt => exact inv_opDisableInterrupt h
  case clearPending => exact inv_opClearPending h
  case connect => exact inv_opConnectDrawn h
  case resetFifo => exact inv_opResetFifo h
  case setAddress => exact inv_opSetAddress h
  case stallIn => exact inv_opStall h
  case stallOut => exact inv_opStall h
  case unstallIn => exact inv_opUnstall h
  case unstallOut => exact inv_opUnstall h
  case clearHalt => exact inv_opClearHalt h
  case outPopByte => exact inv_opOutPopByte h
  case ctrlPopByte => exact inv_opCtrlPopByte h
  case outPrime => exact inv_opOutPrime h
  case inPushByte => exact inv_opInPushByte h
  case inCommit => exact inv_opInCommit h
  all_goals exact h

theorem touches_popByte (p : Port) (f : ReadFifo) (s : State) : Touches p s (popByte p f s) := by
  cases f
  · exact touches_opOutPopByte ..
  · exact touches_opCtrlPopByte ..

theorem inv_popByte {p : Port} {f : ReadFifo} {s : State} (h : Inv s) : Inv (popByte p f s) := by
  cases f
  · exact inv_opOutPopByte h
  · exact inv_opCtrlPopByte h

theorem taskPort_writeNext (p : Port) (ep : EpNo) (size : Nat) (rest : List Byte) (i : Nat) (r : WriteRet) :
    taskPort (writeNext p ep size rest i r) = some p := by
  cases rest <;> rfl

theorem onPort_readReturnTasks (p : Port) (s : State) (buf : List Byte) (ovf : Nat) (r : ReadRet) :
    OnPort p (readReturnTasks p s buf ovf r) := by
  cases r <;> simp only [readReturnTasks, setupReadTasks, dataOutReadTasks]
  case setup => split <;> simp [taskPort]
  all_goals simp [taskPort]

theorem onPort_receivePacketTasks (p : Port) (s : State) : OnPort p (receivePacketTasks p s) := by
  unfold receivePacketTasks
  split <;> simp [taskPort]

theorem onPort_sendCompleteTasks (p : Port) (s : State) : OnPort p (sendCompleteTasks p s) := by
  unfold sendCompleteTasks
  repeat' split
  all_goals simp [taskPort]

theorem touches_writeResult (p : Port) (v : Ret) (r : WriteRet) (s : State) : Touches p s (writeResult v r s) := by
  cases r
  · exact .setRet ..
  · exact .refl ..
  · exact .refl ..

theorem inv_writeResult {v : Ret} {r : WriteRet} {s : State} (h : Inv s) : Inv (writeResult v r s) := by
  cases r
  · exact inv_setRet h
  · exact h
  · exact h

theorem touches_readResult (p : Port) (buf : List Byte) (ovf : Nat) (r : ReadRet) (s : State) :
    Touches p s (readResult buf ovf r s) := by
  cases r
  · exact .setRet ..
  all_goals exact .refl ..

theorem inv_readResult {buf : List Byte} {ovf : Nat} {r : ReadRet} {s : State} (h : Inv s) :
    Inv (readResult buf ovf r s) := by
  cases r
  · exact inv_setRet h
  all_goals exact h

/-- A step of the main context on a port touches that port only, and leaves work on that port only. -/
theorem taskStep_touches {p : Port} {t : Task} (s : State) (h : taskPort t = some p) :
    Touches p s (taskStep t s).state ∧ OnPort p (taskStep t s).next := by
  cases t <;> simp only [taskPort, Option.some.injEq, reduceCtorEq] at h <;> subst h
  case sw => exact ⟨touches_swWrite .., by simp [taskStep, goOn]⟩
  case call => exact touches_callStep ..
  case log => exact ⟨touches_logPort .., by simp [taskStep, goOn]⟩
  case dropLine => exact ⟨touches_opDropLine .., by simp [taskStep, goOn]⟩
  case bootConnect => exact ⟨touches_opConnectDrawn .., by simp [taskStep, goOn, taskPort]⟩
  case readQuery =>
    simp only [taskStep, readQueryStep]
    split <;> exact ⟨.refl .., by simp [goOn, taskPort]⟩
  case readPop =>
    simp only [taskStep, readPopStep]
    split <;> exact ⟨touches_popByte .., by simp [goOn, taskPort]⟩
  case readReturn p buf ovf r =>
    simp only [taskStep, readReturnStep, goOn]
    refine ⟨?_, onPort_readReturnTasks _ _ _ _ _⟩
    have h0 : Touches p s (if 0 < ovf then logReadOverflow p ovf s else s) := by
      split
      · exact touches_logReadOverflow ..
      · exact .refl ..
    exact h0.trans (touches_readResult ..)
  case writeStart =>
    simp only [taskStep, writeStartStep]
    split <;> exact ⟨.refl .., by simp only [goOn, onPort_cons, onPort_nil, taskPort_writeNext, and_true, and_self]; try simp [taskPort]⟩
  case writePush =>
    simp only [taskStep, writePushStep]
    split <;> exact ⟨touches_opInPushByte .., by simp only [goOn, onPort_cons, onPort_nil, taskPort_writeNext, and_true, and_self]; try simp [taskPort]⟩
  case writeBoundary => exact ⟨touches_opInCommit .., by simp [taskStep, goOn, taskPort]⟩
  case writePoll =>
    simp only [taskStep, writePollStep]
    repeat' split
    all_goals exact ⟨.refl .., by simp only [goOn, onPort_cons, onPort_nil, taskPort_writeNext, and_true, and_self]; try simp [taskPort]⟩
  case writeFinal p ep r =>
    refine ⟨(touches_opInCommit ..).trans (touches_writeResult ..), ?_⟩
    cases r <;> simp [taskStep, goOn, writeOkTasks, taskPort]
  case writeExpired p r =>
    refine ⟨touches_writeResult .., ?_⟩
    cases r <;> simp [taskStep, goOn, writeExpiredTasks, taskPort]
  case latch => exact ⟨touches_latchSetup .., by simp [taskStep, goOn]⟩
  case dispatch => exact ⟨.refl .., by simp [taskStep, goOn, taskPort]⟩
  case request => exact ⟨.refl .., onPort_requestTasks _ _ _⟩
  case statusOfEndpoint => exact ⟨.refl .., by simp [taskStep, goOn, taskPort]⟩
  case ackStatusStage =>
    refine ⟨.refl .., ?_⟩
    simp only [taskStep, goOn, ackStatusStageTasks]
    split <;> simp [taskPort]
  case stallControlRequest => exact ⟨.refl .., by simp [taskStep, goOn, stallControlRequestTasks, taskPort]⟩
  case sendResponse =>
    refine ⟨.refl .., ?_⟩
    simp only [taskStep, goOn, sendResponseTasks]
    split <;> simp [taskPort]
  case dataOutBegin => exact ⟨.refl .., by simp [taskStep, goOn, dataOutBeginTasks, clearRxTasks, taskPort]⟩
  case runHook => exact ⟨.refl .., onPort_runHookTasks _ _ _ _ _⟩
  case receivePacket => exact ⟨.refl .., onPort_receivePacketTasks _ _⟩
  case receiveDecide =>
    refine ⟨.refl .., ?_⟩
    simp only [taskStep, goOn, receiveDecideTasks]
    split <;> simp [taskPort, clearRxTasks, onPort_runTypeHookTasks]
  case sendComplete => exact ⟨.refl .., onPort_sendCompleteTasks _ _⟩
  case readSpeed => exact ⟨.refl .., by simp [taskStep, goOn, taskPort]⟩
  case cteBusReset => exact ⟨.refl .., by simp [taskStep, goOn, cteBusResetTasks, clearRxTasks, taskPort]⟩
  case cteReceiveControl => exact ⟨.refl .., by simp [taskStep, goOn, cteReceiveControlTasks, clearRxTasks, taskPort]⟩
  case cteDisconnect =>
    exact ⟨.refl .., by simp [taskStep, goOn, cteDisconnectTasks, disconnectTasks, clearRxTasks, taskPort]⟩

/-- What no step of an agent changes: the parameters, the suspended work, the schedule; the trace only grows. -/
structure Keeps (s t : State) : Prop where
  cfg : t.cfg = s.cfg
  obs : s.g.obs <+: t.g.obs
  main : t.main = s.main
  irq : t.irq = s.irq
  spurious : t.spurious = s.spurious
  quantum : t.quantum = s.quantum
  stream : t.stream = s.stream

namespace Keeps

theorem refl (s : State) : Keeps s s := ⟨rfl, List.prefix_refl _, rfl, rfl, rfl, rfl, rfl⟩

theorem trans {s t u : State} (h : Keeps s t) (h' : Keeps t u) : Keeps s u :=
  ⟨h'.cfg.trans h.cfg, h.obs.trans h'.obs, h'.main.trans h.main, h'.irq.trans h.irq, h'.spurious.trans h.spurious,
    h'.quantum.trans h.quantum, h'.stream.trans h.stream⟩

theorem ofTouches {p : Port} {s t : State} (h : Touches p s t) : Keeps s t :=
  ⟨h.cfg, h.obs, h.main, h.irq, h.spurious, h.quantum, h.stream⟩

end Keeps

theorem keeps_opEvqPush (ev : Event) (s : State) : Keeps s (opEvqPush ev s) := by
  unfold opEvqPush
  split <;> exact ⟨rfl, List.prefix_refl _, rfl, rfl, rfl, rfl, rfl⟩

/-- Every step of an agent keeps what `Keeps` says. -/
theorem taskStep_keeps (t : Task) (s : State) : Keeps s (taskStep t s).state := by
  cases hp : taskPort t with
  | some p => exact .ofTouches (taskStep_touches s hp).1
  | none =>
    cases t <;> simp only [taskPort, reduceCtorEq] at hp
    case evqPush => exact keeps_opEvqPush ..
    all_goals exact ⟨rfl, List.prefix_refl _, rfl, rfl, rfl, rfl, rfl⟩

/-- Every step of an agent keeps Inv (10_state.md R41 a to c). -/
theorem taskStep_inv (t : Task) (s : State) (h : Inv s) : Inv (taskStep t s).state := by
  cases t
  case sw => exact inv_swWrite h
  case call => exact inv_callStep _ _ _ h
  case log => exact inv_logPort h
  case logUnknownInterrupt => exact inv_congr h rfl rfl rfl rfl
  case logErrorEvent => exact inv_congr h rfl rfl rfl rfl
  case dropLine => exact inv_opDropLine h
  case bootConnect => exact inv_opConnectDrawn h
  case readQuery =>
    simp only [taskStep, readQueryStep]
    split <;> exact h
  case readPop =>
    simp only [taskStep, readPopStep]
    split <;> exact inv_popByte h
  case readReturn p buf ovf r =>
    simp only [taskStep, readReturnStep, goOn]
    have h0 : Inv (if 0 < ovf then logReadOverflow p ovf s else s) := by
      split
      · exact inv_logReadOverflow h
      · exact h
    exact inv_readResult h0
  case writeStart =>
    simp only [taskStep, writeStartStep]
    split <;> exact h
  case writePush =>
    simp only [taskStep, writePushStep]
    split <;> exact inv_opInPushByte h
  case writeBoundary => exact inv_opInCommit h
  case writePoll =>
    simp only [taskStep, writePollStep]
    repeat' split
    all_goals exact h
  case writeFinal => exact inv_writeResult (inv_opInCommit h)
  case writeExpired => exact inv_writeResult h
  case latch => exact inv_latchSetup h
  case mainPop => exact inv_opEvqPop h
  case evqPush => exact inv_opEvqPush h
  all_goals exact h

/-! ## A whole turn -/

/-- A turn keeps what every step keeps. -/
theorem runTasks_keeps_all (n : Nat) (ts : List Task) (s : State) : Keeps s (runTasks n ts s).2 :=
  runTasks_keeps (P := fun t => Keeps s t) (fun t u h => h.trans (taskStep_keeps t u)) n ts s (.refl s)

/-- A turn keeps Inv. -/
theorem runTasks_inv (n : Nat) (ts : List Task) (s : State) (h : Inv s) : Inv (runTasks n ts s).2 :=
  runTasks_keeps taskStep_inv n ts s h

/-- A turn whose work is on one port touches that port only, and leaves work on that port only. -/
theorem runTasks_touches {p : Port} {ts : List Task} (n : Nat) (s : State) (h : OnPort p ts) :
    Touches p s (runTasks n ts s).2 ∧ OnPort p (runTasks n ts s).1 := by
  have h' := runTasks_induct (P := fun t => Touches p s t) (Q := fun u => taskPort u = some p)
    (fun t u ht hu => ⟨(taskStep_touches u ht).2, hu.trans (taskStep_touches u ht).1⟩) n ts s h (.refl p s)
  exact ⟨h'.2, h'.1⟩

end Sys2Proof.Machine
end

