-- ==== Sys2Proof/Laws/Io.lean ====
section
/-! SUPPORT. READ and WRITE, said once each (45_endpoint_io.md): what a call leaves that no other agent disturbs, as a
chain of steps (`Reaches`) that the engine's lemmas and the instruction's lemmas cite. -/

namespace Sys2Proof.Machine

/-! ## READ -/

theorem popByte_fifo (p : Port) (f : ReadFifo) (s : State) :
    fifoOf (hwOf (popByte p f s) p) f = (fifoOf (hwOf s p) f).tail := by
  have hd (fifo : List Byte) : hwOf (drawIfEmpty fifo s) p = hwOf s p ∧ (drawIfEmpty fifo s).hw = s.hw := by
    unfold drawIfEmpty
    split <;> exact ⟨rfl, rfl⟩
  by_cases hp : p < s.hw.length
  · cases f <;> simp [popByte, opOutPopByte, opCtrlPopByte, fifoOf, hd, hp]
  · have h0 := hwOf_absent (Nat.le_of_not_lt hp)
    cases f <;> simp [popByte, opOutPopByte, opCtrlPopByte, fifoOf, hd, hp, h0, HwPort.reset]

theorem hasData_iff (p : Port) (f : ReadFifo) (s : State) : hasData p f s = !(fifoOf (hwOf s p) f).isEmpty := by
  cases f <;> rfl

theorem popByte_value {p : Port} {f : ReadFifo} {s : State} {b : Byte} {rest : List Byte}
    (h : fifoOf (hwOf s p) f = b :: rest) : popByteValue p f s = b := by
  cases f <;> simp only [fifoOf] at h <;> simp [popByteValue, outPopValue, ctrlPopValue, popValue, h]

/-- The FIFO of a read set to some content. -/
def setFifo (p : Port) (f : ReadFifo) (c : List Byte) (s : State) : State :=
  updHw p (fun h => match f with
    | .out => { h with outFifo := c }
    | .ctrl => { h with epcFifo := c }) s

theorem fifoOf_setFifo {p : Port} {s : State} (h : p < s.hw.length) (f : ReadFifo) (c : List Byte) :
    fifoOf (hwOf (setFifo p f c s) p) f = c := by
  cases f <;> simp [setFifo, fifoOf, h]

/-- A port with something in a FIFO exists. -/
theorem exists_of_fifo {p : Port} {f : ReadFifo} {s : State} {b : Byte} {rest : List Byte}
    (h : fifoOf (hwOf s p) f = b :: rest) : p < s.hw.length := by
  by_contra hp
  rw [hwOf_absent (Nat.le_of_not_lt hp)] at h
  cases f <;> simp [fifoOf, HwPort.reset] at h

theorem setFifo_self (p : Port) (f : ReadFifo) (s : State) : setFifo p f (fifoOf (hwOf s p) f) s = s := by
  cases f <;> exact updHw_id rfl

theorem setFifo_setFifo (p : Port) (f : ReadFifo) (c d : List Byte) (s : State) :
    setFifo p f c (setFifo p f d s) = setFifo p f c s := by
  cases f <;> exact updHw_updHw ..

theorem popByte_cons {p : Port} {f : ReadFifo} {s : State} {b : Byte} {rest : List Byte}
    (h : fifoOf (hwOf s p) f = b :: rest) : popByte p f s = setFifo p f rest s := by
  have key : drawIfEmpty (fifoOf (hwOf s p) f) s = s := by simp [drawIfEmpty, h]
  cases f <;> simp only [fifoOf] at h key <;> simp only [popByte, opOutPopByte, opCtrlPopByte, setFifo, key] <;>
    exact updHw_congr (by simp [h])

/-- READ's loop (R240, R241): every byte is stored while there is room, else counted; the FIFO ends empty. -/
theorem reaches_readLoop (p : Port) (f : ReadFifo) (len : Nat) (r : ReadRet) :
    ∀ (c : List Byte) (buf : List Byte) (ovf : Nat) (s : State), fifoOf (hwOf s p) f = c →
      buf.length ≤ len →
      Reaches (2 * c.length + 1) [.readQuery p f len buf ovf r] s
        [.readReturn p (buf ++ c.take (len - buf.length)) (ovf + (c.length - (len - buf.length))) r]
        (setFifo p f [] s)
  | [], buf, ovf, s, hc, hb => by
    have hs : setFifo p f [] s = s := by rw [← hc]; exact setFifo_self p f s
    rw [hs]
    refine Reaches.step ?_
    simp [taskStep, readQueryStep, hasData_iff, hc]
  | b :: c, buf, ovf, s, hc, hb => by
    have hpop := popByte_cons hc
    have hval := popByte_value hc
    have hq : taskStep (.readQuery p f len buf ovf r) s = goOn [.readPop p f len buf ovf r] s := by
      simp [taskStep, readQueryStep, hasData_iff, hc]
    have hset : setFifo p f [] s = setFifo p f [] (setFifo p f c s) := (setFifo_setFifo ..).symm
    by_cases hlt : buf.length < len
    · have hp : taskStep (.readPop p f len buf ovf r) s
          = goOn [.readQuery p f len (buf ++ [b]) ovf r] (setFifo p f c s) := by
        simp [taskStep, readPopStep, hlt, hval, hpop]
      have ih := reaches_readLoop p f len r c (buf ++ [b]) ovf (setFifo p f c s) (fifoOf_setFifo (exists_of_fifo hc) ..)
        (by simp; omega)
      have hchain := ((Reaches.step hq).trans (Reaches.step hp)).trans ih
      rw [← hset] at hchain
      have e1 : 1 + 1 + (2 * c.length + 1) = 2 * (b :: c).length + 1 := by simp; omega
      have e2 : (buf ++ [b]) ++ c.take (len - (buf ++ [b]).length) = buf ++ (b :: c).take (len - buf.length) := by
        rw [show len - buf.length = (len - (buf ++ [b]).length) + 1 by simp; omega]
        simp
      have e3 : ovf + (c.length - (len - (buf ++ [b]).length)) = ovf + ((b :: c).length - (len - buf.length)) := by
        simp
        omega
      rw [e1, e2, e3] at hchain
      exact hchain
    · have hp : taskStep (.readPop p f len buf ovf r) s
          = goOn [.readQuery p f len buf (ovf + 1) r] (setFifo p f c s) := by
        simp [taskStep, readPopStep, hlt, hpop]
      have ih := reaches_readLoop p f len r c buf (ovf + 1) (setFifo p f c s) (fifoOf_setFifo (exists_of_fifo hc) ..) hb
      have hchain := ((Reaches.step hq).trans (Reaches.step hp)).trans ih
      rw [← hset] at hchain
      have hz : len - buf.length = 0 := by omega
      have e1 : 1 + 1 + (2 * c.length + 1) = 2 * (b :: c).length + 1 := by simp; omega
      have e3 : ovf + 1 + (c.length - 0) = ovf + ((b :: c).length - 0) := by simp; omega
      rw [e1, hz, e3] at hchain
      simpa [hz] using hchain

/-- What READ answers: the bytes stored and the overflow count. -/
def readBytes (p : Port) (f : ReadFifo) (len : Nat) (s : State) : List Byte := (fifoOf (hwOf s p) f).take len

/-- The overflow count of READ (R241). -/
def readOverflow (p : Port) (f : ReadFifo) (len : Nat) (s : State) : Nat := (fifoOf (hwOf s p) f).length - len

theorem logReadOverflow_zero (p : Port) (s : State) : logReadOverflow p 0 s = s := updSw_id rfl

theorem afterRead_eq (p : Port) (f : ReadFifo) (len : Nat) (s : State) :
    afterRead p f len s = logReadOverflow p (readOverflow p f len s) (setFifo p f [] s) := by
  cases f <;> rfl

/-- READ, to its end, and what follows it where it was called. -/
theorem reaches_read (p : Port) (f : ReadFifo) (len : Nat) (r : ReadRet) (s : State) :
    Reaches (2 * (fifoOf (hwOf s p) f).length + 2) [.readQuery p f len [] 0 r] s
      (readReturnTasks p (afterRead p f len s) (readBytes p f len s) (readOverflow p f len s) r)
      (readResult (readBytes p f len s) (readOverflow p f len s) r (afterRead p f len s)) := by
  have h1 := reaches_readLoop p f len r (fifoOf (hwOf s p) f) [] 0 s rfl (Nat.zero_le _)
  have h2 : afterRead p f len s
      = (if 0 < readOverflow p f len s then logReadOverflow p (readOverflow p f len s) (setFifo p f [] s)
         else setFifo p f [] s) := by
    rw [afterRead_eq]
    split
    · rfl
    · next h => rw [show readOverflow p f len s = 0 by omega, logReadOverflow_zero]
  have h3 : taskStep (.readReturn p (readBytes p f len s) (readOverflow p f len s) r) (setFifo p f [] s)
      = goOn (readReturnTasks p (afterRead p f len s) (readBytes p f len s) (readOverflow p f len s) r)
        (readResult (readBytes p f len s) (readOverflow p f len s) r (afterRead p f len s)) := by
    simp only [taskStep, readReturnStep, ← h2]
  have h4 := h1
  simp only [List.length_nil, Nat.sub_zero, List.nil_append, Nat.zero_add] at h4
  exact h4.trans (Reaches.step h3)

/-! ## WRITE of one packet -/

theorem reaches_call {p : Port} {o : PortOp} {s s' : State} (h : callStep p o s = goOn [] s') :
    Reaches 1 [.call p o] s [] s' := Reaches.step h

/-- The state after pushing bytes one by one (R152). -/
def afterPushes (p : Port) : List Byte → State → State
  | [], s => s
  | b :: rest, s => afterPushes p rest (opInPushByte p b s)

/-- The pushes of a packet in which no boundary falls before the last byte. -/
theorem reaches_pushes (p : Port) (ep : EpNo) (size : Nat) (r : WriteRet) :
    ∀ (bytes : List Byte) (i : Nat) (s : State), i + bytes.length ≤ size →
      Reaches bytes.length [writeNext p ep size bytes i r] s [.writeFinal p ep r] (afterPushes p bytes s)
  | [], _, s, _ => Reaches.refl _ _
  | b :: rest, i, s, h => by
    have hb : ¬((i + 1) % size = 0 ∧ rest ≠ []) := by
      rintro ⟨hm, hr⟩
      have hlen : 0 < rest.length := List.length_pos_of_ne_nil hr
      have hlt : i + 1 < size := by simp at h; omega
      rw [Nat.mod_eq_of_lt hlt] at hm
      omega
    have h1 : taskStep (writeNext p ep size (b :: rest) i r) s
        = goOn [writeNext p ep size rest (i + 1) r] (opInPushByte p b s) := by
      simp only [writeNext, taskStep, writePushStep, if_neg hb]
    have ih := reaches_pushes p ep size r rest (i + 1) (opInPushByte p b s) (by simp at h; omega)
    rw [List.length_cons, Nat.add_comm rest.length 1]
    exact (Reaches.step h1).trans ih

theorem afterPushes_eq (p : Port) : ∀ (bytes : List Byte) (s : State), p < s.hw.length →
    (hwOf s p).inFifo.length ≤ s.cfg.inFifoDepth →
    afterPushes p bytes s
      = updHw p (fun h => { h with inFifo := pushBytes s.cfg.inFifoDepth h.inFifo bytes })
          (updSw p (fun u => { u with ctrWriteOverflow :=
            u.ctrWriteOverflow + (bytes.length - (s.cfg.inFifoDepth - (hwOf s p).inFifo.length)) }) s)
  | [], s, _, _ => by
    have h1 : updSw p (fun u => { u with ctrWriteOverflow :=
        u.ctrWriteOverflow + (([] : List Byte).length - (s.cfg.inFifoDepth - (hwOf s p).inFifo.length)) }) s = s :=
      updSw_id (by simp)
    rw [h1]
    exact (updHw_id (by simp [pushBytes])).symm
  | b :: rest, s, hp, h => by
    unfold afterPushes opInPushByte
    by_cases hlt : (hwOf s p).inFifo.length < s.cfg.inFifoDepth
    · rw [if_pos hlt, afterPushes_eq p rest _ (by simpa using hp) (by simp [hp]; omega)]
      obtain ⟨k, hk⟩ : ∃ k, s.cfg.inFifoDepth - (hwOf s p).inFifo.length = k + 1 :=
        ⟨s.cfg.inFifoDepth - (hwOf s p).inFifo.length - 1, by omega⟩
      have hk' : s.cfg.inFifoDepth - ((hwOf s p).inFifo.length + 1) = k := by omega
      rw [updSw_updHw, updHw_updHw]
      simp only [cfg_updHw, hwOf_updHw, hp, and_self, if_true, List.length_append, List.length_singleton, hk', hk]
      simp only [List.length_cons, Nat.add_sub_add_right]
      refine updHw_congr ?_
      simp [pushBytes, hk, hk']
    · have hz : s.cfg.inFifoDepth - (hwOf s p).inFifo.length = 0 := by omega
      rw [if_neg hlt, afterPushes_eq p rest _ (by simpa [logWriteOverflow] using hp) (by simpa [logWriteOverflow] using h)]
      simp only [logWriteOverflow, cfg_updSw, hwOf_updSw, hz, updSw_updSw, Nat.sub_zero, List.length_cons]
      rw [updSw_congr (g := fun u => { u with ctrWriteOverflow := u.ctrWriteOverflow + (rest.length + 1) }) (by simp; omega)]
      refine updHw_congr ?_
      simp [pushBytes, hz]

/-- The stale check, with the first step of what follows it (R242). -/
theorem reaches_writeStart (p : Port) (ep : EpNo) (bytes : List Byte) (size : Nat) (r : WriteRet) (s : State) :
    ∃ k ≤ 3, Reaches k [.writeStart p ep bytes size r] s [writeNext p ep size bytes 0 r] (afterStaleCheck p s) := by
  unfold afterStaleCheck
  by_cases h : (hwOf s p).inFifo = []
  · refine ⟨1, by omega, ?_⟩
    rw [if_pos h]
    refine Reaches.step ?_
    simp [taskStep, writeStartStep, opInHasData, inHave, h]
  · refine ⟨3, by omega, ?_⟩
    rw [if_neg h]
    have h1 : taskStep (.writeStart p ep bytes size r) s
        = goOn [.call p (.resetFifo .inp), .log p .staleFifoReset, writeNext p ep size bytes 0 r] s := by
      simp [taskStep, writeStartStep, opInHasData, inHave, h]
    have h2 : taskStep (.call p (.resetFifo .inp)) s = goOn [] (opResetFifo p .inp s) := rfl
    have h3 : taskStep (.log p .staleFifoReset) (opResetFifo p .inp s)
        = goOn [] (logPort p .staleFifoReset (opResetFifo p .inp s)) := rfl
    exact ((Reaches.step h1).trans (Reaches.head h2)).trans (Reaches.head h3)

theorem inFifo_afterStaleCheck {p : Port} {s : State} (hp : p < s.hw.length) :
    (hwOf (afterStaleCheck p s) p).inFifo = [] := by
  unfold afterStaleCheck
  split
  · assumption
  · simp [hp]

@[simp] theorem cfg_afterStaleCheck (p : Port) (s : State) : (afterStaleCheck p s).cfg = s.cfg := by
  unfold afterStaleCheck
  split <;> simp

@[simp] theorem length_hw_afterStaleCheck (p : Port) (s : State) : (afterStaleCheck p s).hw.length = s.hw.length := by
  unfold afterStaleCheck
  split <;> simp

@[simp] theorem length_hw_afterWrite (p : Port) (ep : EpNo) (bytes : List Byte) (s : State) :
    (afterWrite p ep bytes s).hw.length = s.hw.length := by
  simp [afterWrite]

/-- WRITE of at most one packet, to its end, and what follows it where it was called (R242, R243, R244). -/
theorem reaches_write (p : Port) (ep : EpNo) (bytes : List Byte) (size : Nat) (r : WriteRet) (s : State)
    (h : bytes.length ≤ size) (hp : p < s.hw.length) :
    ∃ k ≤ bytes.length + 4, Reaches k [.writeStart p ep bytes size r] s (writeOkTasks p r)
      (writeResult .writeOk r (afterWrite p ep bytes s)) := by
  obtain ⟨k, hk, h1⟩ := reaches_writeStart p ep bytes size r s
  have h2 := reaches_pushes p ep size r bytes 0 (afterStaleCheck p s) (by omega)
  have h3 : taskStep (.writeFinal p ep r) (afterPushes p bytes (afterStaleCheck p s))
      = goOn (writeOkTasks p r) (writeResult .writeOk r (opInCommit p ep (afterPushes p bytes (afterStaleCheck p s)))) :=
    rfl
  have h4 : opInCommit p ep (afterPushes p bytes (afterStaleCheck p s)) = afterWrite p ep bytes s := by
    have hz := inFifo_afterStaleCheck hp
    have hp' : p < (afterStaleCheck p s).hw.length := by simpa using hp
    rw [afterPushes_eq p bytes _ hp' (by rw [hz]; exact Nat.zero_le _)]
    unfold opInCommit afterWrite
    simp only [hwOf_updHw, hwOf_updSw, hw_updSw, hp', and_self, if_true, hz, List.length_nil, Nat.sub_zero, length_pushBytes,
      cfg_afterStaleCheck, Nat.zero_add, Nat.min_comm]
    rw [updHw_updHw]
    congr 1
    refine updHw_congr ?_
    simp [hz, pushBytes]
  rw [h4] at h3
  refine ⟨k + bytes.length + 1, by omega, (h1.trans h2).trans (Reaches.step h3)⟩

end Sys2Proof.Machine
end

