-- ==== Sys2Proof/Laws/Turn.lean ====
section
/-! SUPPORT. What the ways of performing an instruction answer: a chain of steps to the end of the work is the answer of
the turn that starts with it; an instruction that is not enabled leaves everything but `ret`; no step depends on the length of
its turn. -/

namespace Sys2Proof.Machine

theorem onPort_exists {p : Port} {f : State → Answer} {s : State} (h : portExists p s = true) : onPort p f s = f s := by
  simp [onPort, h]

theorem onPort_absent {p : Port} {f : State → Answer} {s : State} (h : portExists p s = false) :
    onPort p f s = .fault (.noSuchPort p) := by
  simp [onPort, h]

theorem mainAtomic_enabled {r : State → Ret} {f : State → State} {s : State} (h : mainEnabled s = true) :
    mainAtomic r f s = .next (setRet (r s) (f s)) := by
  simp [mainAtomic, h]

theorem mainAtomic_disabled {r : State → Ret} {f : State → State} {s : State} (h : mainEnabled s = false) :
    mainAtomic r f s = .next (setRet .disabled s) := by
  simp [mainAtomic, h, notEnabled]

theorem startMain_disabled {ts : List Task} {s : State} (h : mainEnabled s = false) :
    startMain ts s = .next (setRet .disabled s) := by
  simp [startMain, h, notEnabled]

theorem busMove_enabled {guard : State → Bool} {f : State → State} {s : State} (h : guard s = true) :
    busMove guard f s = .next (setRet .nothing (f s)) := by
  simp [busMove, h]

theorem busMove_disabled {guard : State → Bool} {f : State → State} {s : State} (h : guard s = false) :
    busMove guard f s = .next (setRet .disabled s) := by
  simp [busMove, h, notEnabled]

/-- A chain from state `s` to `s'` keeps the suspended work, the schedule and the parameters. -/
theorem Reaches.keeps {k : Nat} {ts : List Task} {s s' : State} (h : Reaches k ts s [] s') : Keeps s s' := by
  have h' := runTasks_keeps_all k ts s
  rw [h.run (Nat.le_refl k)] at h'
  exact h'

/-- An operation of several steps of the main context, done to its end in one turn. -/
theorem startMain_run {k : Nat} {ts : List Task} {s s' : State} (he : mainEnabled s = true)
    (h : Reaches k ts (setRet .nothing s) [] s') (hk : k ≤ turnLength s) : startMain ts s = .next s' := by
  have hm : s'.main = s.main := h.keeps.main
  simp only [startMain, he, if_true, h.run hk, List.nil_append]
  rw [← hm]

/-- A turn of the main agent, done to its end: the run in progress, else one iteration of the main loop. -/
theorem mainTurn_run {k : Nat} {s s' : State} (he : mainEnabled s = true)
    (h : Reaches k (mainWork s) (setRet .nothing { s with main := [] }) [] s') (hk : k ≤ turnLength s) :
    mainTurn s = .next s' := by
  have hm : s'.main = [] := h.keeps.main
  simp only [mainTurn, he, if_true, h.run hk]
  rw [← hm]

/-- A part of the dispatcher, done to its end in one turn. -/
theorem startIrq_run {k : Nat} {ts : List Task} {s s' : State} (hf : s.g.fatal = false)
    (h : Reaches k ts (setRet .nothing s) [] s') (hk : k ≤ turnLength s) : startIrq ts s = .next s' := by
  have hm : s'.irq = s.irq := h.keeps.irq
  simp only [startIrq, hf, Bool.false_eq_true, if_false, h.run hk, List.nil_append]
  rw [← hm]

/-- A run of the dispatcher from its entry to its return (60_exceptions.md R267, R268). -/
theorem irqTurn_run {k : Nat} {s s' : State} (he : irqEnabled s = true) (hirq : s.irq = [])
    (h : Reaches k [.irqScan (priorityChain s.hw.length) (s.spurious.getD 0)] { s with spurious := none, ret := .nothing } [] s')
    (hk : k ≤ turnLength s) : irqTurn s = .next s' := by
  have hf : s.g.fatal = false := by
    simp only [irqEnabled, Bool.and_eq_true, Bool.not_eq_true'] at he
    exact he.1
  have hm : s'.irq = [] := h.keeps.irq.trans hirq
  have hstart : setRet .nothing { enterInterrupt s with irq := [] } = { s with spurious := none, ret := .nothing } := by
    simp [setRet, enterInterrupt, hirq]
  have hrun : runTasks (turnLength (enterInterrupt s)) (enterInterrupt s).irq
      (setRet .nothing { enterInterrupt s with irq := [] }) = ([], s') := by
    rw [hstart]
    exact h.run hk
  simp only [irqTurn, hf, hirq, he, Bool.false_eq_true, if_false, List.isEmpty_nil, if_true, continueIrq, hrun]
  rw [← hm]

/-- The push of an event ends a turn, whether the queue takes it or the machine halts (43_dispatcher_queue.md R178). -/
theorem runTasks_push (n : Nat) (ev : Event) (s : State) :
    runTasks (n + 1) [.evqPush ev] s = ([], opEvqPush ev s) := by
  cases hf : (opEvqPush ev s).g.fatal <;> simp [runTasks, taskStep, hf]

/-- A chain to the push of an event is the result of a turn that is long enough. -/
theorem Reaches.push {k n : Nat} {ts : List Task} {ev : Event} {s s' : State} (h : Reaches k ts s [.evqPush ev] s')
    (hn : k + 1 ≤ n) : runTasks n ts s = ([], opEvqPush ev s') := by
  have h' := h (n - k - 1 + 1) []
  rw [List.append_nil, List.append_nil, show n - k - 1 + 1 + k = n by omega] at h'
  rw [h', runTasks_push]

/-- A handler of the dispatcher, done to its push in one turn. -/
theorem startIrq_push {k : Nat} {ts : List Task} {ev : Event} {s s' : State} (hf : s.g.fatal = false)
    (h : Reaches k ts (setRet .nothing s) [.evqPush ev] s') (hk : k + 1 ≤ turnLength s) :
    startIrq ts s = .next (opEvqPush ev s') := by
  have hr := h.push hk
  have hm := (runTasks_keeps_all (turnLength s) ts (setRet .nothing s)).irq
  rw [hr] at hm
  simp only [irq_setRet] at hm
  simp only [startIrq, hf, Bool.false_eq_true, if_false, hr, List.nil_append]
  rw [← hm]

/-- A run of the dispatcher from its entry to its push. -/
theorem irqTurn_push {k : Nat} {ev : Event} {s s' : State} (he : irqEnabled s = true) (hirq : s.irq = [])
    (h : Reaches k [.irqScan (priorityChain s.hw.length) (s.spurious.getD 0)] { s with spurious := none, ret := .nothing }
      [.evqPush ev] s') (hk : k + 1 ≤ turnLength s) : irqTurn s = .next (opEvqPush ev s') := by
  have hf : s.g.fatal = false := by
    simp only [irqEnabled, Bool.and_eq_true, Bool.not_eq_true'] at he
    exact he.1
  have hstart : setRet .nothing { enterInterrupt s with irq := [] } = { s with spurious := none, ret := .nothing } := by
    simp [setRet, enterInterrupt, hirq]
  have hrun : runTasks (turnLength (enterInterrupt s)) (enterInterrupt s).irq
      (setRet .nothing { enterInterrupt s with irq := [] }) = ([], opEvqPush ev s') := by
    rw [hstart]
    exact h.push hk
  have hm := (runTasks_keeps_all (turnLength (enterInterrupt s)) (enterInterrupt s).irq
    (setRet .nothing { enterInterrupt s with irq := [] })).irq
  rw [hrun, hstart] at hm
  simp only [hirq] at hm
  simp only [irqTurn, hf, hirq, he, Bool.false_eq_true, if_false, List.isEmpty_nil, if_true, continueIrq, hrun]
  rw [← hm]

/-! ## The length of a turn: no step depends on it -/

theorem opInPushByte_quantum (p : Port) (b : Byte) (s : State) (x : Option Nat) :
    opInPushByte p b { s with quantum := x } = { opInPushByte p b s with quantum := x } := by
  by_cases h : (hwOf s p).inFifo.length < s.cfg.inFifoDepth <;> simp [opInPushByte, h] <;> rfl

theorem drawIfEmpty_quantum (c : List Byte) (s : State) (x : Option Nat) :
    drawIfEmpty c { s with quantum := x } = { drawIfEmpty c s with quantum := x } := by
  by_cases h : c.isEmpty = true <;> simp [drawIfEmpty, h]

theorem popByte_quantum (p : Port) (f : ReadFifo) (s : State) (x : Option Nat) :
    popByte p f { s with quantum := x } = { popByte p f s with quantum := x } := by
  cases f <;> simp only [popByte, opOutPopByte, opCtrlPopByte, hwOf_with_quantum, drawIfEmpty_quantum] <;> rfl

theorem callStep_quantum (p : Port) (o : PortOp) (s : State) (x : Option Nat) :
    callStep p o { s with quantum := x } = { callStep p o s with state := { (callStep p o s).state with quantum := x } } := by
  cases o
  case inPushByte b => simp only [callStep, goOn, opInPushByte_quantum]
  case outPopByte => exact congrArg (goOn []) (popByte_quantum p .out s x)
  case ctrlPopByte => exact congrArg (goOn []) (popByte_quantum p .ctrl s x)
  all_goals rfl

/-- No step depends on the turn's length, and none changes it. -/
theorem taskStep_quantum (t : Task) (s : State) (x : Option Nat) :
    taskStep t { s with quantum := x } = { taskStep t s with state := { (taskStep t s).state with quantum := x } } := by
  cases t
  case call p o => exact callStep_quantum p o s x
  case readQuery p f len buf ovf r =>
    have h : hasData p f { s with quantum := x } = hasData p f s := by cases f <;> rfl
    simp only [taskStep, readQueryStep, h]
    cases hasData p f s <;> rfl
  case readPop p f len buf ovf r =>
    have h : popByteValue p f { s with quantum := x } = popByteValue p f s := by cases f <;> rfl
    simp only [taskStep, readPopStep, h, popByte_quantum]
    split <;> rfl
  case readReturn p buf ovf r =>
    by_cases h : 0 < ovf <;> cases r <;> simp only [taskStep, readReturnStep, h, if_true, if_false] <;> rfl
  case writeStart p ep bytes size r =>
    have h : opInHasData p { s with quantum := x } = opInHasData p s := rfl
    simp only [taskStep, writeStartStep, h]
    cases opInHasData p s <;> rfl
  case writePush p ep size b rest i r =>
    simp only [taskStep, writePushStep, opInPushByte_quantum]
    split <;> rfl
  case writePoll p ep size rest i polls r =>
    have h : opInHasData p { s with quantum := x } = opInHasData p s := rfl
    simp only [taskStep, writePollStep, h]
    cases opInHasData p s <;> cases budgetUsed s.cfg (polls + 1) <;> rfl
  case writeFinal p ep r => cases r <;> rfl
  case writeExpired p r => cases r <;> rfl
  case evqPush ev =>
    by_cases h : s.g.evq.length = s.cfg.evqCapacity <;> simp [taskStep, opEvqPush, h, raiseFatal]
  all_goals rfl

/-- Nor does a turn of a given number of steps. -/
theorem runTasks_quantum (n : Nat) (ts : List Task) (s : State) (x : Option Nat) :
    runTasks n ts { s with quantum := x } = ((runTasks n ts s).1, { (runTasks n ts s).2 with quantum := x }) := by
  induction n generalizing ts s with
  | zero => rfl
  | succ n ih =>
    cases ts with
    | nil => rfl
    | cons t ts =>
      simp only [runTasks, taskStep_quantum]
      split
      · rfl
      · exact ih _ _

/-- A chain of `k` steps from the work of one instruction to the first step of another is `Continues`. -/
theorem continues_of_reaches {i j : Instr} {ti : List Task} {tj : Task} {k : Nat} {s u : State}
    (hi : exec i s = startMain ti s) (hj : ∀ n, exec j { u with quantum := some n } = startMain [tj] { u with quantum := some n })
    (hf : u.g.fatal = s.g.fatal)
    (he : mainEnabled s = true)
    (hr : Reaches k ti (setRet .nothing s) [tj] (setRet .nothing u)) : Continues i j k s u := by
  intro n hn
  have hk := runTasks_keeps_all k ti (setRet .nothing s)
  have h0 := hr 0 []
  simp only [Nat.zero_add, List.append_nil, runTasks_zero] at h0
  rw [h0] at hk
  have hm : u.main = s.main := hk.main
  have hirq : u.irq = s.irq := hk.irq
  have hq : u.quantum = s.quantum := hk.quantum
  have heu : mainEnabled { u with quantum := some n } = true := by
    simp only [mainEnabled, hf, hirq] at he ⊢; exact he
  rw [hj n, hi]
  have hlen : turnLength { u with quantum := some n } = n := rfl
  simp only [startMain, heu, he, if_true, hlen, hn]
  have h1 := hr n []
  simp only [List.append_nil] at h1
  rw [h1]
  have h2 := runTasks_quantum n [tj] (setRet .nothing u) (some n)
  have h2' : setRet .nothing { u with quantum := some n } = { (setRet .nothing u) with quantum := some n } := rfl
  rw [h2', h2]
  have h4 := (runTasks_keeps_all n [tj] (setRet .nothing u)).quantum
  refine ⟨_, rfl, ?_⟩
  simp only [hm]
  congr 1
  rw [← hq, ← quantum_setRet .nothing u, ← h4]

end Sys2Proof.Machine
end

