-- ==== Sys2Proof/Laws/Engine.lean ====
section
/-! SUPPORT. The endings of the engine's handlers, said once each (44_control_engine.md R193 to R197, R212): chains of
steps from an ending to the state it leaves. -/

namespace Sys2Proof.Machine

/-- STALL_CONTROL_REQUEST (R196). -/
theorem reaches_stall (p : Port) (s : State) : Reaches 4 [.stallControlRequest p] s [] (afterStall p s) := by
  have h0 : taskStep (.stallControlRequest p) s = goOn (stallControlRequestTasks p) s := rfl
  have h1 : taskStep (.call p (.stallIn 0)) s = goOn [] (opStall p .inp 0 s) := rfl
  have h2 : taskStep (.call p (.stallOut 0)) (opStall p .inp 0 s) = goOn [] (opStall p .out 0 (opStall p .inp 0 s)) := rfl
  have h3 : taskStep (.sw p (.cp .idle)) (opStall p .out 0 (opStall p .inp 0 s))
      = goOn [] (swWrite p (.cp .idle) (opStall p .out 0 (opStall p .inp 0 s))) := rfl
  have he : swWrite p (.cp .idle) (opStall p .out 0 (opStall p .inp 0 s)) = afterStall p s := by
    simp [swWrite, opStall, afterStall, setStallBit, updSw_observe, updHw_observe, updSw_updHw, updHw_updHw]
  rw [he] at h3
  exact (((Reaches.step h0).trans (Reaches.head h1)).trans (Reaches.head h2)).trans (Reaches.head h3)

theorem reaches_statusOut (p : Port) (s : State) :
    Reaches 2 [.call p (.outPrime 0), .sw p (.cp .statusOut)] s [] (afterStatusOut p s) := by
  have h1 : taskStep (.call p (.outPrime 0)) s = goOn [] (opOutPrime p 0 s) := rfl
  have h2 : taskStep (.sw p (.cp .statusOut)) (opOutPrime p 0 s) = goOn [] (afterStatusOut p s) := rfl
  exact (Reaches.head h1).trans (Reaches.head h2)

theorem reaches_statusIn (p : Port) (s : State) (hp : p < s.hw.length) :
    ∃ k ≤ 6, Reaches k [.call p (.writeZlp 0), .sw p (.cp .statusIn)] s [] (afterStatusIn p s) := by
  obtain ⟨k, hk, hw⟩ := reaches_write p 0 [] 1 .discard s (by simp) hp
  have h1 : taskStep (.call p (.writeZlp 0)) s = goOn [.writeStart p 0 [] 1 .discard] s := rfl
  have h2 : taskStep (.sw p (.cp .statusIn)) (afterWrite p 0 [] s) = goOn [] (afterStatusIn p s) := rfl
  refine ⟨1 + k + 1, by simp at hk; omega, ?_⟩
  exact ((Reaches.head h1).trans (hw.frame [.sw p (.cp .statusIn)])).trans (Reaches.head h2)

/-- ACK_STATUS_STAGE (R195). -/
theorem reaches_ack (p : Port) (s : State) (hp : p < s.hw.length) : ∃ k ≤ 7, Reaches k [.ackStatusStage p] s [] (afterAck p s) := by
  have h0 : taskStep (.ackStatusStage p) s = goOn (ackStatusStageTasks p (directionOf (latched s p))) s := rfl
  unfold afterAck
  cases hd : directionOf (latched s p) with
  | deviceToHost =>
    rw [hd] at h0
    exact ⟨1 + 2, by omega, (Reaches.step h0).trans (reaches_statusOut p s)⟩
  | hostToDevice =>
    rw [hd] at h0
    obtain ⟨k, hk, h1⟩ := reaches_statusIn p s hp
    exact ⟨1 + k, by omega, (Reaches.step h0).trans h1⟩

@[simp] theorem latched_updHw (p q : Port) (f : HwPort → HwPort) (s : State) : latched (updHw p f s) q = latched s q := rfl
@[simp] theorem latched_observe (o : Obs) (s : State) (q : Port) : latched (observe o s) q = latched s q := rfl
@[simp] theorem latched_setRet (r : Ret) (s : State) (q : Port) : latched (setRet r s) q = latched s q := rfl

theorem latched_updSw (p q : Port) (f : SwPort → SwPort) (s : State) (h : ∀ u, (f u).x = u.x) :
    latched (updSw p f s) q = latched s q := by
  unfold latched
  rw [swOf_updSw]
  split
  · next hq => rw [h, hq.1]
  · rfl

@[simp] theorem latched_afterStaleCheck (p q : Port) (s : State) : latched (afterStaleCheck p s) q = latched s q := by
  unfold afterStaleCheck
  split
  · rfl
  · exact latched_updSw _ _ _ _ (fun _ => rfl)

@[simp] theorem latched_afterWrite (p q : Port) (ep : EpNo) (bytes : List Byte) (s : State) :
    latched (afterWrite p ep bytes s) q = latched s q := by
  unfold afterWrite
  rw [latched_observe, latched_updHw]
  refine (latched_updSw _ _ _ _ ?_).trans (latched_afterStaleCheck p q s)
  exact fun _ => rfl

theorem afterWrite_cp (p : Port) (c : PipeState) (ep : EpNo) (bytes : List Byte) (s : State) :
    afterWrite p ep bytes (swWrite p (.cp c) s) = swWrite p (.cp c) (afterWrite p ep bytes s) := by
  by_cases h : (hwOf s p).inFifo = [] <;>
    simp [afterWrite, afterStaleCheck, swWrite, h, updSw_observe, updHw_observe, updSw_updHw, updHw_updHw, updSw_updSw]

/-- A value of cp that the acknowledgement overwrites. -/
theorem afterAck_cp (p : Port) (c : PipeState) (s : State) : afterAck p (swWrite p (.cp c) s) = afterAck p s := by
  have hl : latched (swWrite p (.cp c) s) p = latched s p := latched_updSw _ _ _ _ (fun _ => rfl)
  unfold afterAck
  rw [hl]
  cases directionOf (latched s p)
  · simp only [afterStatusIn, afterWrite_cp]
    simp [swWrite, updSw_updSw]
  · simp [afterStatusOut, swWrite, updSw_observe, updSw_updHw, updSw_updSw]

/-- SEND_RESPONSE of a reply of at most one packet (R197). -/
theorem reaches_response (p : Port) (bytes : List Byte) (s : State) (h : OnePacket p bytes s)
    (hp : p < s.hw.length) :
    ∃ k ≤ (replyBytes p s bytes).length + 14, Reaches k [.sendResponse p bytes] s [] (afterResponse p bytes s) := by
  have h0 : taskStep (.sendResponse p bytes) s = goOn (sendResponseTasks p s bytes) s := rfl
  unfold afterResponse
  by_cases hz : (latched s p).length = 0
  · obtain ⟨k, hk, ha⟩ := reaches_ack p s hp
    have h1 : sendResponseTasks p s bytes = [.ackStatusStage p] := by simp [sendResponseTasks, hz]
    rw [h1] at h0
    rw [if_pos hz]
    exact ⟨1 + k, by omega, (Reaches.step h0).trans ha⟩
  · have hn : (latched s p).length.toNat ≠ 0 := fun h' => hz (BitVec.eq_of_toNat_eq h')
    have ht : bytes.take (min (latched s p).length.toNat bytes.length) = replyBytes p s bytes := by
      simp [replyBytes, List.take_eq_take_iff]
    have h1 : sendResponseTasks p s bytes
        = [.sw p (.cp .dataIn), .writeStart p 0 (replyBytes p s bytes) (mpsOf s.cfg (swOf s p).speed) .response] := by
      simp only [sendResponseTasks, if_neg hn, ht]
    rw [h1] at h0
    have h2 : taskStep (.sw p (.cp .dataIn)) s = goOn [] (swWrite p (.cp .dataIn) s) := rfl
    obtain ⟨k, hk, hw⟩ := reaches_write p 0 (replyBytes p s bytes) (mpsOf s.cfg (swOf s p).speed) .response
      (swWrite p (.cp .dataIn) s) h hp
    obtain ⟨j, hj, ha⟩ := reaches_ack p (afterWrite p 0 (replyBytes p s bytes) (swWrite p (.cp .dataIn) s)) (by simpa [swWrite] using hp)
    rw [afterWrite_cp, afterAck_cp] at ha
    rw [afterWrite_cp] at hw
    rw [if_neg hz]
    exact ⟨1 + 1 + k + j, by omega, (((Reaches.step h0).trans (Reaches.head h2)).trans hw).trans ha⟩

/-- DATA_OUT_BEGIN (R212). -/
theorem reaches_dataOutBegin (p : Port) (s : State) :
    Reaches 5 [.dataOutBegin p] s [] (afterDataOutBegin p s) := by
  have h0 : taskStep (.dataOutBegin p) s = goOn (dataOutBeginTasks p) s := rfl
  have h1 : taskStep (.sw p (.rxBuf [])) s = goOn [] (swWrite p (.rxBuf []) s) := rfl
  have h2 (t : State) : taskStep (.sw p (.rxTotal 0)) t = goOn [] (swWrite p (.rxTotal 0) t) := rfl
  have h3 (t : State) : taskStep (.call p (.outPrime 0)) t = goOn [] (opOutPrime p 0 t) := rfl
  have h4 (t : State) : taskStep (.sw p (.cp .dataOut)) t = goOn [] (swWrite p (.cp .dataOut) t) := rfl
  have he : swWrite p (.cp .dataOut) (opOutPrime p 0 (swWrite p (.rxTotal 0) (swWrite p (.rxBuf []) s)))
      = afterDataOutBegin p s := by
    simp [swWrite, opOutPrime, afterDataOutBegin, updSw_observe, updSw_updHw, updSw_updSw]
  have hc := ((((Reaches.step h0).trans (Reaches.head h1)).trans (Reaches.head (h2 _))).trans (Reaches.head (h3 _))).trans
    (Reaches.head (h4 _))
  rw [he] at hc
  exact hc

/-- A request row's instruction: the packet is latched, then its handler runs. -/
theorem reaches_latch (p : Port) (pk : SetupPacket) (s : State) (h : Handler) :
    Reaches 2 [.latch p (encSetup pk), .request p h] s (requestTasks p (afterLatch p pk s) h) (afterLatch p pk s) := by
  have h1 : taskStep (.latch p (encSetup pk)) s = goOn [] (afterLatch p pk s) := rfl
  have h2 : taskStep (.request p h) (afterLatch p pk s) = goOn (requestTasks p (afterLatch p pk s) h) (afterLatch p pk s) :=
    rfl
  exact (Reaches.head h1).trans (Reaches.step h2)

end Sys2Proof.Machine
end

