-- ==== Sys2Proof/Laws/PerInstr.lean ====
section
/-! SUPPORT. One lemma for each constructor of Instr: the decoder reads a well-formed instruction back from its word,
with every operand, and leaves the bytes behind it. -/

namespace Sys2Proof.Laws.RoundTrip

open Sys2Proof

/-- Decoding an encoded well-formed instruction gives it back. -/
def Statement (i : Instr) : Prop := i.wellFormed = true → ∀ r, decode (viewOf i) (encode i ++ r) = .ok (i, r)

/-- A well-formedness check of two parts. -/
theorem both {a b : Bool} (h : (a && b) = true) : a = true ∧ b = true := (Bool.and_eq_true _ _).mp h

/-- A request row: the packet is of the row. -/
theorem request_row (row : RequestRow) (p : Port) (s : SetupPacket) (r : List Byte)
    (h : (fitsPort p && inRequestRow s row) = true) :
    decode .setup64 ((putPacket s ++ putPort p) ++ r) = .ok (requestInstr row p s, r) := by
  rw [Bool.and_eq_true] at h
  rw [decode_packet h.1, of_decide_eq_true h.2]

theorem decRecipient (rt : Byte) : Statement (.decRecipient rt) := fun _ r =>
  args1_ok inverse_byte Instr.decRecipient r trivial
theorem decType (rt : Byte) : Statement (.decType rt) := fun _ r =>
  args1_ok inverse_byte Instr.decType r trivial
theorem decDirection (rt : Byte) : Statement (.decDirection rt) := fun _ r =>
  args1_ok inverse_byte Instr.decDirection r trivial
theorem decRequest (rq : Byte) : Statement (.decRequest rq) := fun _ r =>
  args1_ok inverse_byte Instr.decRequest r trivial
theorem decSetup (b : SetupBytes) : Statement (.decSetup b) := fun _ r =>
  args1_ok inverse_setupBytes Instr.decSetup r trivial
theorem encSetup (pk : SetupPacket) : Statement (.encSetup pk) := fun _ r =>
  args1_ok inverse_packet Instr.encSetup r trivial
theorem descSelect (pk : SetupPacket) : Statement (.descSelect pk) := fun _ r =>
  args1_ok inverse_packet Instr.descSelect r trivial
theorem featureSelect (pk : SetupPacket) : Statement (.featureSelect pk) := fun _ r =>
  args1_ok inverse_packet Instr.featureSelect r trivial
theorem epAddrSplit (ea : Byte) : Statement (.epAddrSplit ea) := fun _ r =>
  args1_ok inverse_byte Instr.epAddrSplit r trivial
theorem devAddr (pk : SetupPacket) : Statement (.devAddr pk) := fun _ r =>
  args1_ok inverse_packet Instr.devAddr r trivial
theorem enableInterrupt (p : Port) (src : Source) : Statement (.enableInterrupt p src) := fun h r =>
  args2_ok inverse_port inverse_source Instr.enableInterrupt r h trivial
theorem disableInterrupt (p : Port) (src : Source) : Statement (.disableInterrupt p src) := fun h r =>
  args2_ok inverse_port inverse_source Instr.disableInterrupt r h trivial
theorem clearPending (p : Port) (src : Source) : Statement (.clearPending p src) := fun h r =>
  args2_ok inverse_port inverse_source Instr.clearPending r h trivial
theorem isPending (p : Port) (src : Source) : Statement (.isPending p src) := fun h r =>
  args2_ok inverse_port inverse_source Instr.isPending r h trivial
theorem connect (p : Port) (sp : Speed) : Statement (.connect p sp) := fun h r =>
  args2_ok inverse_port inverse_speed Instr.connect r h trivial
theorem disconnect (p : Port) : Statement (.disconnect p) := fun h r =>
  args1_ok inverse_port Instr.disconnect r h
theorem ctlSpeed (p : Port) : Statement (.ctlSpeed p) := fun h r =>
  args1_ok inverse_port Instr.ctlSpeed r h
theorem resetFifo (p : Port) (g : FifoGroup) : Statement (.resetFifo p g) := fun h r =>
  args2_ok inverse_port inverse_fifoGroup Instr.resetFifo r h trivial
theorem setAddress (p : Port) (a : DevAddr) : Statement (.setAddress p a) := fun h r =>
  args2_ok inverse_port inverse_devAddr Instr.setAddress r h trivial
theorem stallIn (p : Port) (e : EpNo) : Statement (.stallIn p e) := fun h r =>
  args2_ok inverse_port inverse_epNo Instr.stallIn r h trivial
theorem stallOut (p : Port) (e : EpNo) : Statement (.stallOut p e) := fun h r =>
  args2_ok inverse_port inverse_epNo Instr.stallOut r h trivial
theorem unstallIn (p : Port) (e : EpNo) : Statement (.unstallIn p e) := fun h r =>
  args2_ok inverse_port inverse_epNo Instr.unstallIn r h trivial
theorem unstallOut (p : Port) (e : EpNo) : Statement (.unstallOut p e) := fun h r =>
  args2_ok inverse_port inverse_epNo Instr.unstallOut r h trivial
theorem clearHalt (p : Port) (ea : Byte) : Statement (.clearHalt p ea) := fun h r =>
  args2_ok inverse_port inverse_byte Instr.clearHalt r h trivial
theorem outHasData (p : Port) : Statement (.outHasData p) := fun h r =>
  args1_ok inverse_port Instr.outHasData r h
theorem outPopByte (p : Port) : Statement (.outPopByte p) := fun h r =>
  args1_ok inverse_port Instr.outPopByte r h
theorem ctrlHasData (p : Port) : Statement (.ctrlHasData p) := fun h r =>
  args1_ok inverse_port Instr.ctrlHasData r h
theorem ctrlPopByte (p : Port) : Statement (.ctrlPopByte p) := fun h r =>
  args1_ok inverse_port Instr.ctrlPopByte r h
theorem ctrlEpno (p : Port) : Statement (.ctrlEpno p) := fun h r =>
  args1_ok inverse_port Instr.ctrlEpno r h
theorem outEpno (p : Port) : Statement (.outEpno p) := fun h r =>
  args1_ok inverse_port Instr.outEpno r h
theorem outPrime (p : Port) (e : EpNo) : Statement (.outPrime p e) := fun h r =>
  args2_ok inverse_port inverse_epNo Instr.outPrime r h trivial
theorem inPushByte (p : Port) (b : Byte) : Statement (.inPushByte p b) := fun h r =>
  args2_ok inverse_port inverse_byte Instr.inPushByte r h trivial
theorem inCommit (p : Port) (e : EpNo) : Statement (.inCommit p e) := fun h r =>
  args2_ok inverse_port inverse_epNo Instr.inCommit r h trivial
theorem inIsIdle (p : Port) : Statement (.inIsIdle p) := fun h r =>
  args1_ok inverse_port Instr.inIsIdle r h
theorem inHasData (p : Port) : Statement (.inHasData p) := fun h r =>
  args1_ok inverse_port Instr.inHasData r h
theorem isStalled (p : Port) (d : Dir) (e : EpNo) : Statement (.isStalled p d e) := fun h r =>
  args3_ok inverse_port inverse_dir inverse_epNo Instr.isStalled r h trivial trivial
theorem inEpno (p : Port) : Statement (.inEpno p) := fun h r =>
  args1_ok inverse_port Instr.inEpno r h
theorem hostBusReset (p : Port) (sp : Speed) : Statement (.hostBusReset p sp) := fun h r =>
  args2_ok inverse_port inverse_speed Instr.hostBusReset r h trivial
theorem hostSetup (p : Port) (a : DevAddr) (e : EpNo) (bytes : List Byte) : Statement (.hostSetup p a e bytes) := fun h r =>
  args4_ok inverse_port inverse_devAddr inverse_epNo inverse_bytes Instr.hostSetup r (both h).1 trivial trivial (both h).2
theorem hostOutPacket (p : Port) (a : DevAddr) (e : EpNo) (bytes : List Byte) : Statement (.hostOutPacket p a e bytes) := fun h r =>
  args4_ok inverse_port inverse_devAddr inverse_epNo inverse_bytes Instr.hostOutPacket r (both h).1 trivial trivial (both h).2
theorem hostInTake (p : Port) (a : DevAddr) (e : EpNo) : Statement (.hostInTake p a e) := fun h r =>
  args3_ok inverse_port inverse_devAddr inverse_epNo Instr.hostInTake r h trivial trivial
theorem hostSeesStall (p : Port) (a : DevAddr) (d : Dir) (e : EpNo) : Statement (.hostSeesStall p a d e) := fun h r =>
  args4_ok inverse_port inverse_devAddr inverse_dir inverse_epNo Instr.hostSeesStall r h trivial trivial trivial
theorem spuriousIrq (extra : Nat) : Statement (.spuriousIrq extra) := fun h r =>
  args1_ok inverse_nat32 Instr.spuriousIrq r h
theorem irqEntry : Statement .irqEntry := fun _ _ => rfl
theorem irqBusReset (p : Port) : Statement (.irqBusReset p) := fun h r =>
  args1_ok inverse_port Instr.irqBusReset r h
theorem irqReceiveControl (p : Port) : Statement (.irqReceiveControl p) := fun h r =>
  args1_ok inverse_port Instr.irqReceiveControl r h
theorem irqReceivePacket (p : Port) : Statement (.irqReceivePacket p) := fun h r =>
  args1_ok inverse_port Instr.irqReceivePacket r h
theorem irqSendComplete (p : Port) : Statement (.irqSendComplete p) := fun h r =>
  args1_ok inverse_port Instr.irqSendComplete r h
theorem irqUnknown (extra : Nat) : Statement (.irqUnknown extra) := fun h r =>
  args1_ok inverse_nat32 Instr.irqUnknown r h
theorem evqPush (ev : Event) : Statement (.evqPush ev) := fun h r =>
  args1_ok inverse_event Instr.evqPush r h
theorem evqPop : Statement .evqPop := fun _ _ => rfl
theorem mainStep : Statement .mainStep := fun _ _ => rfl
theorem cteBusReset (p : Port) : Statement (.cteBusReset p) := fun h r =>
  args1_ok inverse_port Instr.cteBusReset r h
theorem cteReceiveControl (p : Port) : Statement (.cteReceiveControl p) := fun h r =>
  args1_ok inverse_port Instr.cteReceiveControl r h
theorem cteDispatch (p : Port) : Statement (.cteDispatch p) := fun h r =>
  args1_ok inverse_port Instr.cteDispatch r h
theorem ackStatusStage (p : Port) : Statement (.ackStatusStage p) := fun h r =>
  args1_ok inverse_port Instr.ackStatusStage r h
theorem stallControlRequest (p : Port) : Statement (.stallControlRequest p) := fun h r =>
  args1_ok inverse_port Instr.stallControlRequest r h
theorem sendResponse (p : Port) (bytes : List Byte) : Statement (.sendResponse p bytes) := fun h r =>
  args2_ok inverse_port inverse_bytes Instr.sendResponse r (both h).1 (both h).2
theorem dataOutBegin (p : Port) : Statement (.dataOutBegin p) := fun h r =>
  args1_ok inverse_port Instr.dataOutBegin r h
theorem cteReceivePacket (p : Port) : Statement (.cteReceivePacket p) := fun h r =>
  args1_ok inverse_port Instr.cteReceivePacket r h
theorem cteSendComplete (p : Port) : Statement (.cteSendComplete p) := fun h r =>
  args1_ok inverse_port Instr.cteSendComplete r h
theorem cteDisconnect (p : Port) : Statement (.cteDisconnect p) := fun h r =>
  args1_ok inverse_port Instr.cteDisconnect r h
theorem runHook (p : Port) (h : HookKind) (k : Byte) (data : List Byte) : Statement (.runHook p h k data) := fun h r =>
  args4_ok inverse_port inverse_hookKind inverse_byte inverse_bytes Instr.runHook r (both h).1 trivial trivial (both h).2
theorem read (p : Port) (f : ReadFifo) (len : Nat) : Statement (.read p f len) := fun h r =>
  args3_ok inverse_port inverse_readFifo inverse_nat32 Instr.read r (both h).1 trivial (both h).2
theorem write (p : Port) (ep : EpNo) (bytes : List Byte) (size : Nat) : Statement (.write p ep bytes size) := fun h r =>
  args4_ok inverse_port inverse_epNo inverse_bytes inverse_size Instr.write r (both (both h).1).1 trivial (both (both h).1).2 (both h).2
theorem writeZlp (p : Port) (ep : EpNo) : Statement (.writeZlp p ep) := fun h r =>
  args2_ok inverse_port inverse_epNo Instr.writeZlp r h trivial
theorem readControl (p : Port) : Statement (.readControl p) := fun h r =>
  args1_ok inverse_port Instr.readControl r h
theorem reqGetStatus (p : Port) (s : SetupPacket) : Statement (.reqGetStatus p s) := fun h r =>
  request_row .getStatus p s r h
theorem reqClearFeature (p : Port) (s : SetupPacket) : Statement (.reqClearFeature p s) := fun h r =>
  request_row .clearFeature p s r h
theorem reqReservedStd2 (p : Port) (s : SetupPacket) : Statement (.reqReservedStd2 p s) := fun h r =>
  request_row .reservedStd2 p s r h
theorem reqSetFeature (p : Port) (s : SetupPacket) : Statement (.reqSetFeature p s) := fun h r =>
  request_row .setFeature p s r h
theorem reqReservedStd4 (p : Port) (s : SetupPacket) : Statement (.reqReservedStd4 p s) := fun h r =>
  request_row .reservedStd4 p s r h
theorem reqSetAddress (p : Port) (s : SetupPacket) : Statement (.reqSetAddress p s) := fun h r =>
  request_row .setAddress p s r h
theorem reqGetDescriptor (p : Port) (s : SetupPacket) : Statement (.reqGetDescriptor p s) := fun h r =>
  request_row .getDescriptor p s r h
theorem reqSetDescriptor (p : Port) (s : SetupPacket) : Statement (.reqSetDescriptor p s) := fun h r =>
  request_row .setDescriptor p s r h
theorem reqGetConfiguration (p : Port) (s : SetupPacket) : Statement (.reqGetConfiguration p s) := fun h r =>
  request_row .getConfiguration p s r h
theorem reqSetConfiguration (p : Port) (s : SetupPacket) : Statement (.reqSetConfiguration p s) := fun h r =>
  request_row .setConfiguration p s r h
theorem reqGetInterface (p : Port) (s : SetupPacket) : Statement (.reqGetInterface p s) := fun h r =>
  request_row .getInterface p s r h
theorem reqSetInterface (p : Port) (s : SetupPacket) : Statement (.reqSetInterface p s) := fun h r =>
  request_row .setInterface p s r h
theorem reqSynchFrame (p : Port) (s : SetupPacket) : Statement (.reqSynchFrame p s) := fun h r =>
  request_row .synchFrame p s r h
theorem reqClassOrVendorStd13 (p : Port) (s : SetupPacket) : Statement (.reqClassOrVendorStd13 p s) := fun h r =>
  request_row .classOrVendorStd13 p s r h
theorem reqClassOrVendorStd14To15 (p : Port) (s : SetupPacket) : Statement (.reqClassOrVendorStd14To15 p s) := fun h r =>
  request_row .classOrVendorStd14To15 p s r h
theorem reqClassOrVendorStd16To31 (p : Port) (s : SetupPacket) : Statement (.reqClassOrVendorStd16To31 p s) := fun h r =>
  request_row .classOrVendorStd16To31 p s r h
theorem reqClassOrVendorStd32To63 (p : Port) (s : SetupPacket) : Statement (.reqClassOrVendorStd32To63 p s) := fun h r =>
  request_row .classOrVendorStd32To63 p s r h
theorem reqClassOrVendorStd64To127 (p : Port) (s : SetupPacket) : Statement (.reqClassOrVendorStd64To127 p s) := fun h r =>
  request_row .classOrVendorStd64To127 p s r h
theorem reqClassOrVendorStd128To255 (p : Port) (s : SetupPacket) : Statement (.reqClassOrVendorStd128To255 p s) := fun h r =>
  request_row .classOrVendorStd128To255 p s r h
theorem reqClassOrVendorClass (p : Port) (s : SetupPacket) : Statement (.reqClassOrVendorClass p s) := fun h r =>
  request_row .classOrVendorClass p s r h
theorem reqClassOrVendorVendor (p : Port) (s : SetupPacket) : Statement (.reqClassOrVendorVendor p s) := fun h r =>
  request_row .classOrVendorVendor p s r h
theorem reqReservedType3 (p : Port) (s : SetupPacket) : Statement (.reqReservedType3 p s) := fun h r =>
  request_row .reservedType3 p s r h
theorem reqGetDescriptorDevice (p : Port) (s : SetupPacket) : Statement (.reqGetDescriptorDevice p s) := fun h r =>
  request_row .getDescriptorDevice p s r h
theorem reqGetDescriptorConfiguration (p : Port) (s : SetupPacket) : Statement (.reqGetDescriptorConfiguration p s) := fun h r =>
  request_row .getDescriptorConfiguration p s r h
theorem reqGetDescriptorString (p : Port) (s : SetupPacket) : Statement (.reqGetDescriptorString p s) := fun h r =>
  request_row .getDescriptorString p s r h
theorem reqGetDescriptorDeviceQualifier (p : Port) (s : SetupPacket) : Statement (.reqGetDescriptorDeviceQualifier p s) := fun h r =>
  request_row .getDescriptorDeviceQualifier p s r h
theorem reqClearFeatureEndpointHalt (p : Port) (s : SetupPacket) : Statement (.reqClearFeatureEndpointHalt p s) := fun h r =>
  request_row .clearFeatureEndpointHalt p s r h
theorem reqClearFeatureDeviceRemoteWakeup (p : Port) (s : SetupPacket) : Statement (.reqClearFeatureDeviceRemoteWakeup p s) := fun h r =>
  request_row .clearFeatureDeviceRemoteWakeup p s r h
theorem reqSetFeatureEndpointHalt (p : Port) (s : SetupPacket) : Statement (.reqSetFeatureEndpointHalt p s) := fun h r =>
  request_row .setFeatureEndpointHalt p s r h
theorem reqSetFeatureDeviceRemoteWakeup (p : Port) (s : SetupPacket) : Statement (.reqSetFeatureDeviceRemoteWakeup p s) := fun h r =>
  request_row .setFeatureDeviceRemoteWakeup p s r h

/-! ## Constants -/

theorem recipient_rows : ∀ rt : Byte, ∀ i ∈ [Instr.recipientDevice rt, .recipientInterface rt, .recipientEndpoint rt,
    .recipientOther rt, .recipientReserved4To7 rt, .recipientReserved8To15 rt, .recipientReserved16To31 rt],
    i.wellFormed = true → decodeRecipientRow rt = i := by decide +kernel
theorem type_rows : ∀ rt : Byte, ∀ i ∈ [Instr.typeStandard rt, .typeClass rt, .typeVendor rt, .typeReserved rt],
    i.wellFormed = true → decodeTypeRow rt = i := by decide +kernel
theorem direction_rows : ∀ rt : Byte, ∀ i ∈ [Instr.directionHostToDevice rt, .directionDeviceToHost rt],
    i.wellFormed = true → decodeDirectionRow rt = i := by decide +kernel
theorem req_rows : ∀ rq : Byte, ∀ i ∈ [Instr.requestClassOrVendor14To15 rq, .requestClassOrVendor16To31 rq,
    .requestClassOrVendor32To63 rq, .requestClassOrVendor64To127 rq, .requestClassOrVendor128To255 rq],
    i.wellFormed = true → decodeReqRow rq = i := by decide +kernel
theorem epaddr_rows : ∀ ea : Byte, ∀ i ∈ [Instr.epaddrOut ea, .epaddrIn ea],
    i.wellFormed = true → decodeEpaddrRow ea = i := by decide +kernel
theorem pend4_rows : ∀ v : BitVec 4, ∀ i ∈ [Instr.pend4BusReset v, .pend4ReceiveControl v, .pend4ReceivePacket v,
    .pend4SendComplete v, .pend4None v],
    i.wellFormed = true → decode .pend4 [v.setWidth 8] = .ok (i, []) := by decide +kernel

theorem pend4_row (v : BitVec 4) (r : List Byte) :
    decode .pend4 (v.setWidth 8 :: r) = .ok (decodePend4Row v, r) := by
  have h := v.isLt
  have hn : (v.setWidth 8).toNat = v.toNat := by simp; omega
  have hw : (v.setWidth 8).setWidth 4 = v := by
    apply BitVec.eq_of_toNat_eq
    simp
  simp only [decode, hn, hw]
  rw [if_pos h]

theorem pend4_same {v : BitVec 4} {i : Instr} (h : decode .pend4 [v.setWidth 8] = .ok (i, [])) (r : List Byte) :
    decode .pend4 (v.setWidth 8 :: r) = .ok (i, r) := by
  rw [pend4_row] at h ⊢
  simp_all

theorem recipientDevice (rt : Byte) : Statement (.recipientDevice rt) := fun h r =>
  congrArg (fun i => Except.ok (i, r)) (recipient_rows rt _ (by simp) h)
theorem recipientInterface (rt : Byte) : Statement (.recipientInterface rt) := fun h r =>
  congrArg (fun i => Except.ok (i, r)) (recipient_rows rt _ (by simp) h)
theorem recipientEndpoint (rt : Byte) : Statement (.recipientEndpoint rt) := fun h r =>
  congrArg (fun i => Except.ok (i, r)) (recipient_rows rt _ (by simp) h)
theorem recipientOther (rt : Byte) : Statement (.recipientOther rt) := fun h r =>
  congrArg (fun i => Except.ok (i, r)) (recipient_rows rt _ (by simp) h)
theorem recipientReserved4To7 (rt : Byte) : Statement (.recipientReserved4To7 rt) := fun h r =>
  congrArg (fun i => Except.ok (i, r)) (recipient_rows rt _ (by simp) h)
theorem recipientReserved8To15 (rt : Byte) : Statement (.recipientReserved8To15 rt) := fun h r =>
  congrArg (fun i => Except.ok (i, r)) (recipient_rows rt _ (by simp) h)
theorem recipientReserved16To31 (rt : Byte) : Statement (.recipientReserved16To31 rt) := fun h r =>
  congrArg (fun i => Except.ok (i, r)) (recipient_rows rt _ (by simp) h)
theorem typeStandard (rt : Byte) : Statement (.typeStandard rt) := fun h r =>
  congrArg (fun i => Except.ok (i, r)) (type_rows rt _ (by simp) h)
theorem typeClass (rt : Byte) : Statement (.typeClass rt) := fun h r =>
  congrArg (fun i => Except.ok (i, r)) (type_rows rt _ (by simp) h)
theorem typeVendor (rt : Byte) : Statement (.typeVendor rt) := fun h r =>
  congrArg (fun i => Except.ok (i, r)) (type_rows rt _ (by simp) h)
theorem typeReserved (rt : Byte) : Statement (.typeReserved rt) := fun h r =>
  congrArg (fun i => Except.ok (i, r)) (type_rows rt _ (by simp) h)
theorem directionHostToDevice (rt : Byte) : Statement (.directionHostToDevice rt) := fun h r =>
  congrArg (fun i => Except.ok (i, r)) (direction_rows rt _ (by simp) h)
theorem directionDeviceToHost (rt : Byte) : Statement (.directionDeviceToHost rt) := fun h r =>
  congrArg (fun i => Except.ok (i, r)) (direction_rows rt _ (by simp) h)
theorem requestGetStatus : Statement .requestGetStatus := fun _ _ => rfl
theorem requestClearFeature : Statement .requestClearFeature := fun _ _ => rfl
theorem requestReserved2 : Statement .requestReserved2 := fun _ _ => rfl
theorem requestSetFeature : Statement .requestSetFeature := fun _ _ => rfl
theorem requestReserved4 : Statement .requestReserved4 := fun _ _ => rfl
theorem requestSetAddress : Statement .requestSetAddress := fun _ _ => rfl
theorem requestGetDescriptor : Statement .requestGetDescriptor := fun _ _ => rfl
theorem requestSetDescriptor : Statement .requestSetDescriptor := fun _ _ => rfl
theorem requestGetConfiguration : Statement .requestGetConfiguration := fun _ _ => rfl
theorem requestSetConfiguration : Statement .requestSetConfiguration := fun _ _ => rfl
theorem requestGetInterface : Statement .requestGetInterface := fun _ _ => rfl
theorem requestSetInterface : Statement .requestSetInterface := fun _ _ => rfl
theorem requestSynchronizeFrame : Statement .requestSynchronizeFrame := fun _ _ => rfl
theorem requestClassOrVendor13 : Statement .requestClassOrVendor13 := fun _ _ => rfl
theorem requestClassOrVendor14To15 (rq : Byte) : Statement (.requestClassOrVendor14To15 rq) := fun h r =>
  congrArg (fun i => Except.ok (i, r)) (req_rows rq _ (by simp) h)
theorem requestClassOrVendor16To31 (rq : Byte) : Statement (.requestClassOrVendor16To31 rq) := fun h r =>
  congrArg (fun i => Except.ok (i, r)) (req_rows rq _ (by simp) h)
theorem requestClassOrVendor32To63 (rq : Byte) : Statement (.requestClassOrVendor32To63 rq) := fun h r =>
  congrArg (fun i => Except.ok (i, r)) (req_rows rq _ (by simp) h)
theorem requestClassOrVendor64To127 (rq : Byte) : Statement (.requestClassOrVendor64To127 rq) := fun h r =>
  congrArg (fun i => Except.ok (i, r)) (req_rows rq _ (by simp) h)
theorem requestClassOrVendor128To255 (rq : Byte) : Statement (.requestClassOrVendor128To255 rq) := fun h r =>
  congrArg (fun i => Except.ok (i, r)) (req_rows rq _ (by simp) h)
theorem featureEndpointHalt : Statement .featureEndpointHalt := fun _ _ => rfl
theorem featureDeviceRemoteWakeup : Statement .featureDeviceRemoteWakeup := fun _ _ => rfl
theorem epaddrOut (ea : Byte) : Statement (.epaddrOut ea) := fun h r =>
  congrArg (fun i => Except.ok (i, r)) (epaddr_rows ea _ (by simp) h)
theorem epaddrIn (ea : Byte) : Statement (.epaddrIn ea) := fun h r =>
  congrArg (fun i => Except.ok (i, r)) (epaddr_rows ea _ (by simp) h)
theorem devAddrValid (v : Half) : Statement (.devAddrValid v) := fun h r => by
  have h' : inRow v 0xFF80#16 0x0000#16 = true := h
  simp [viewOf, encode, decode, inverse_half v r trivial, decodeDevAddrRow, h']
theorem pend4BusReset (v : BitVec 4) : Statement (.pend4BusReset v) := fun h r =>
  pend4_same (pend4_rows v _ (by simp) h) r
theorem pend4ReceiveControl (v : BitVec 4) : Statement (.pend4ReceiveControl v) := fun h r =>
  pend4_same (pend4_rows v _ (by simp) h) r
theorem pend4ReceivePacket (v : BitVec 4) : Statement (.pend4ReceivePacket v) := fun h r =>
  pend4_same (pend4_rows v _ (by simp) h) r
theorem pend4SendComplete (v : BitVec 4) : Statement (.pend4SendComplete v) := fun h r =>
  pend4_same (pend4_rows v _ (by simp) h) r
theorem pend4None (v : BitVec 4) : Statement (.pend4None v) := fun h r =>
  pend4_same (pend4_rows v _ (by simp) h) r
theorem eventBusReset : Statement .eventBusReset := fun _ _ => rfl
theorem eventReceiveControl : Statement .eventReceiveControl := fun _ _ => rfl
theorem eventReceivePacket : Statement .eventReceivePacket := fun _ _ => rfl
theorem eventSendComplete : Statement .eventSendComplete := fun _ _ => rfl
theorem eventUnknownInterrupt : Statement .eventUnknownInterrupt := fun _ _ => rfl
theorem eventError : Statement .eventError := fun _ _ => rfl
theorem speedHigh : Statement .speedHigh := fun _ _ => rfl
theorem speedFull : Statement .speedFull := fun _ _ => rfl
theorem speedLow : Statement .speedLow := fun _ _ => rfl
theorem speedSuperspeed : Statement .speedSuperspeed := fun _ _ => rfl

end Sys2Proof.Laws.RoundTrip
end

