-- ==== Sys2Proof/Laws/Pipe.lean ====
section
/-! SUPPORT. R41 (d) to (f) in the middle of a handler (10_state.md R41; log 37): what `PipeAfter` asks of lists of work, and
one lemma, `taskStep_pipeAfter`, that says once that a step leaves the view as the work behind it needs it. -/

namespace Sys2Proof.Machine

/-- The work `a ++ b` leaves `Q` if `a` leaves what `b` needs. -/
theorem pipeAfter_append (c : Params) (p : Port) (Q : PipeView → Prop) : ∀ (a b : List Task) (v : PipeView),
    PipeAfter c p (a ++ b) Q v ↔ PipeAfter c p a (PipeAfter c p b Q) v := by
  intro a
  induction a with
  | nil => intro b v; rfl
  | cons t a ih =>
    intro b v
    have : PipeAfter c p (a ++ b) Q = PipeAfter c p a (PipeAfter c p b Q) := by
      funext v; exact propext (ih b v)
    simp only [List.cons_append, PipeAfter, this]

/-- The work of another port asks nothing of this one. -/
theorem pipeAfter_other (c : Params) (p q : Port) (h : q ≠ p) (Q : PipeView → Prop) (v : PipeView) :
    ∀ ts : List Task, OnPort q ts → (PipeAfter c p ts Q v ↔ Q v) := by
  intro ts
  induction ts with
  | nil => intro _; rfl
  | cons t ts ih =>
    intro ho
    rw [onPort_cons] at ho
    have hn : ¬(some q = some p ∨ (some q : Option Port) = none) := by simp [h]
    simp only [PipeAfter, ho.1]
    rw [if_neg hn]
    exact ih ho.2

theorem pipeView_touches {q p : Port} {s t : State} (h : Touches q s t) (hne : p ≠ q) :
    pipeView t p = pipeView s p := by
  simp [pipeView, latched, h.sw p hne]

theorem pipeView_congr {p : Port} {s t : State} (h : swOf t p = swOf s p) : pipeView t p = pipeView s p := by
  simp [pipeView, latched, h]

theorem pipeView_swWrite {p : Port} {s : State} (hp : p < s.sw.length) (w : SwWrite) :
    pipeView (swWrite p w s) p = (pipeView s p).assign w := by
  cases w <;> simp [pipeView, latched, swWrite, hp, PipeView.assign]

@[simp] theorem pipeAfter_nil (c : Params) (p : Port) (Q : PipeView → Prop) (v : PipeView) :
    PipeAfter c p [] Q v = Q v := rfl
/-- A step of the port's own, before the rest of the work. -/
theorem pipeAfter_cons (c : Params) (p : Port) (t : Task) (ts : List Task) (Q : PipeView → Prop) (v : PipeView)
    (h : taskPort t = some p) :
    PipeAfter c p (t :: ts) Q v = PipeAfterTask c (PipeAfter c p ts Q) v t := by
  simp [PipeAfter, h]

theorem pipeAfter_calls (c : Params) (p : Port) (ops : List PortOp) (Q : PipeView → Prop) (v : PipeView) :
    PipeAfter c p (ops.map (Task.call p)) Q v = Q v := by
  induction ops with
  | nil => rfl
  | cons o os ih => simp [PipeAfter, taskPort, PipeAfterTask, ih]

/-- No operation of files 42 and 45 writes what R41 (d) to (f) speak of. -/
theorem pipeView_callStep (p : Port) (o : PortOp) (s : State) : pipeView (callStep p o s).state p = pipeView s p := by
  have hd (f : List Byte) (s : State) : swOf (drawIfEmpty f s) p = swOf s p := by
    unfold drawIfEmpty; split <;> rfl
  cases o
  case inPushByte b =>
    simp only [callStep, goOn, opInPushByte]
    split
    · exact pipeView_congr rfl
    · simp only [logWriteOverflow, pipeView, latched, swOf_updSw]
      split <;> simp
  case outPopByte => exact pipeView_congr (by simp [callStep, goOn, opOutPopByte, hd])
  case ctrlPopByte => exact pipeView_congr (by simp [callStep, goOn, opCtrlPopByte, hd])
  all_goals exact pipeView_congr rfl

theorem pipeAfter_callStep (c : Params) (p : Port) (o : PortOp) (s : State) (Q : PipeView → Prop) (v : PipeView) (h : Q v) :
    PipeAfter c p (callStep p o s).next Q v := by
  cases o <;> simp [callStep, goOn, disconnectTasks, PipeAfter, taskPort, PipeAfterTask, PipeAfterRead, PipeAfterWrite, h]

/-- What the two endings of a handler leave of a view with nothing received or deferred. -/
theorem pipeOk_acked {c : Params} {v : PipeView} (h : PipeView.Clean v) : PipeOk c v.acked := by
  obtain ⟨h1, h2, h3⟩ := h
  refine ⟨⟨?_, ?_, ?_⟩, ?_, ?_⟩
  · simp [PipeView.acked, h2]
  · simp [PipeView.acked, h2]
  · intro _; exact ⟨h2, h3⟩
  · intro h; exact absurd h1 h
  · unfold AtRest PipeView.acked; cases v.dir <;> simp

theorem pipeOk_stalled {c : Params} {v : PipeView} (h : PipeView.Clean v) : PipeOk c v.stalled := by
  obtain ⟨h1, h2, h3⟩ := h
  refine ⟨⟨?_, ?_, ?_⟩, ?_, ?_⟩
  · simp [PipeView.stalled, h2]
  · simp [PipeView.stalled, h2]
  · intro _; exact ⟨h2, h3⟩
  · intro h; exact absurd h1 h
  · simp [AtRest, PipeView.stalled]

theorem pipeAfter_writeNext (c : Params) (p : Port) (ep : EpNo) (size : Nat) (rest : List Byte) (i : Nat) (r : WriteRet)
    (Q : PipeView → Prop) (v : PipeView) (h : PipeAfterWrite Q v r) :
    PipeAfter c p [writeNext p ep size rest i r] Q v := by
  cases rest <;> simp [writeNext, PipeAfter, taskPort, PipeAfterTask, h]

/-- RUN_HOOK (44_control_engine.md R211). -/
theorem pipeAfter_runHook (c : Params) (p : Port) (s : State) (kind : HookKind) (k : Byte) (data : List Byte)
    (Q : PipeView → Prop) (h : Q (pipeView s p).acked ∧ Q (pipeView s p).stalled) :
    PipeAfter c p (runHookTasks p s kind k data) Q (pipeView s p) := by
  unfold runHookTasks
  split
  · simp [PipeAfter, taskPort, PipeAfterTask, h]
  · split
    · simp [PipeAfter, taskPort, PipeAfterTask, h]
    · split <;> simp [PipeAfter, taskPort, PipeAfterTask, h]
    · rw [pipeAfter_append, pipeAfter_calls]
      simp only [PipeAfter, taskPort, true_or, if_true, PipeAfterTask, PipeView.assign]
      have := h.1
      unfold PipeView.acked at this
      exact this

theorem pipeAfter_runTypeHook (c : Params) (p : Port) (s : State) (data : List Byte) (Q : PipeView → Prop) (v : PipeView)
    (h : Q v.acked ∧ Q v.stalled) :
    PipeAfter c p (runTypeHookTasks p s data) Q v := by
  unfold runTypeHookTasks
  split <;> simp [PipeAfter, taskPort, PipeAfterTask, h]

theorem direction_of_noDataOut {pk : SetupPacket} (h : noDataOut pk = true) : directionOf pk = .hostToDevice := by
  simp [noDataOut] at h; exact h.1

/-- Every request handler (R198 to R210), from a packet that has just been latched. -/
theorem pipeAfter_request (p : Port) (s : State) (hd : Handler) (Q : PipeView → Prop) (hc : (pipeView s p).Clean)
    (ha : AnyOk s.cfg Q) :
    PipeAfter s.cfg p (requestTasks p s hd) Q (pipeView s p) := by
  have h1 : Q (pipeView s p).acked := ha _ (pipeOk_acked hc)
  have h2 : Q (pipeView s p).stalled := ha _ (pipeOk_stalled hc)
  have h3 : ∀ w, w = SwWrite.remoteWakeup true ∨ w = .remoteWakeup false ∨ (∃ b, w = .configValue b) → ((pipeView s p).assign w) = pipeView s p := by
    rintro w (rfl | rfl | ⟨b, rfl⟩) <;> rfl
  have h4 : pipeView s p = pipeView s p := rfl
  cases hd <;> simp only [requestTasks]
  case getStatus => unfold reqGetStatusTasks; dsimp only; repeat' split
                    all_goals simp [PipeAfter, taskPort, PipeAfterTask, h1, h2]
  case clearFeature => unfold reqClearFeatureTasks; dsimp only; repeat' split
                       all_goals simp [PipeAfter, taskPort, PipeAfterTask, h1, h2, h3]
  case reserved => simp [reqReservedTasks, PipeAfter, taskPort, PipeAfterTask, h2]
  case setFeature => unfold reqSetFeatureTasks; dsimp only; repeat' split
                     all_goals simp [PipeAfter, taskPort, PipeAfterTask, h1, h2, h3]
  case setAddress =>
    unfold reqSetAddressTasks; dsimp only; split
    · next hh =>
      split
      · simp [PipeAfter, taskPort, PipeAfterTask, h2]
      · next a _ =>
        simp only [PipeAfter, taskPort, true_or, if_true, PipeAfterTask]
        apply ha
        have hdir := direction_of_noDataOut hh.2
        obtain ⟨c1, c2, c3⟩ := hc
        refine ⟨⟨?_, ?_, ?_⟩, ?_, ?_⟩
        · simp [PipeView.acked, PipeView.assign, c2]
        · simp [PipeView.acked, PipeView.assign, c2]
        · intro _; exact ⟨c2, c3⟩
        · intro _; simp [PipeView.acked, PipeView.assign, pipeView, hdir]
        · unfold AtRest; simp [PipeView.acked, PipeView.assign, pipeView, hdir]
    · simp [PipeAfter, taskPort, PipeAfterTask, h2]
  case getDescriptor => unfold reqGetDescriptorTasks tableReply; dsimp only; repeat' split
                        all_goals simp [PipeAfter, taskPort, PipeAfterTask, h1, h2]
  case setDescriptor => simp [reqSetDescriptorTasks, PipeAfter, taskPort, PipeAfterTask, h2]
  case getConfiguration => unfold reqGetConfigurationTasks; dsimp only; repeat' split
                           all_goals simp [PipeAfter, taskPort, PipeAfterTask, h1, h2]
  case setConfiguration => unfold reqSetConfigurationTasks; dsimp only; repeat' split
                           all_goals simp [PipeAfter, taskPort, PipeAfterTask, h1, h2, h3]
  case getInterface => unfold reqGetInterfaceTasks; dsimp only; repeat' split
                       all_goals simp [PipeAfter, taskPort, PipeAfterTask, h1, h2]
  case setInterface => unfold reqSetInterfaceTasks; dsimp only; repeat' split
                       all_goals simp [PipeAfter, taskPort, PipeAfterTask, h1, h2]
  case synchFrame => simp [reqSynchFrameTasks, PipeAfter, taskPort, PipeAfterTask, h2]
  case classOrVendor =>
    unfold reqClassOrVendorTasks; dsimp only; split
    · simp [PipeAfter, taskPort, PipeAfterTask, h2]
    · split
      · simp only [PipeAfter, taskPort, true_or, if_true, PipeAfterTask]
        apply ha
        obtain ⟨c1, c2, c3⟩ := hc
        refine ⟨⟨by simp, by simp, ?_⟩, ?_, ?_⟩
        · intro h; exact absurd rfl h
        · intro h; exact absurd c1 h
        · simp [AtRest]
      · exact pipeAfter_runTypeHook _ _ _ _ _ _ ⟨h1, h2⟩

theorem pipeOk_cleared (c : Params) (v : PipeView) : PipeOk c v.cleared := by
  refine ⟨⟨by simp [PipeView.cleared], by simp [PipeView.cleared], ?_⟩, ?_, ?_⟩
  · intro _; exact ⟨rfl, rfl⟩
  · intro h; exact absurd rfl h
  · simp [AtRest, PipeView.cleared]

theorem pipeAfter_boot (c : Params) (p : Port) (Q : PipeView → Prop) (v : PipeView) :
    PipeAfter c p (bootPort p) Q v = Q v := by
  simp [bootPort, PipeAfter, taskPort, PipeAfterTask]

theorem pipeAfter_appTasks_own (c : Params) (p : Port) : ∀ (l : List AppCall) (Q : PipeView → Prop) (v : PipeView),
    AnyOk c Q → Q v → PipeAfter c p (appTasks p l) Q v := by
  intro l
  induction l with
  | nil => intro Q v _ h; exact h
  | cons x l ih =>
    intro Q v ha h
    have hA : AnyOk c (PipeAfter c p (appTasks p l) Q) := fun w hw => ih Q w ha (ha w hw)
    have e : appTasks p (x :: l) = appTasks p [x] ++ appTasks p l := by simp [appTasks]
    rw [e, pipeAfter_append]
    cases x
    · have := ih Q v ha h
      simpa [appTasks, PipeAfter, taskPort, PipeAfterTask] using this
    · simp only [appTasks, List.flatMap_cons, List.flatMap_nil, List.append_nil, PipeAfter, taskPort, PipeAfterTask]
      exact hA _ (pipeOk_cleared c v)
    · simp only [appTasks, List.flatMap_cons, List.flatMap_nil, List.append_nil, pipeAfter_boot]
      exact ih Q v ha h

theorem onPort_appTasks (p : Port) (l : List AppCall) : OnPort p (appTasks p l) := by
  intro u hu
  simp only [appTasks, List.mem_flatMap] at hu
  obtain ⟨c, _, h⟩ := hu
  cases c <;> simp [bootPort] at h
  · subst h; rfl
  · subst h; rfl
  · rcases h with h|h|h|h|h|h|h|h|h|h|h|h|h <;> subst h <;> rfl

/-- What APP does (43_dispatcher_queue.md R181), on any port. -/
theorem pipeAfter_appTasks (c : Params) (p q : Port) (l : List AppCall) (Q : PipeView → Prop) (v : PipeView)
    (ha : AnyOk c Q) (h : Q v) :
    PipeAfter c p (appTasks q l) Q v := by
  by_cases e : q = p
  · subst e; exact pipeAfter_appTasks_own c q l Q v ha h
  · exact (pipeAfter_other c p q e Q v _ (onPort_appTasks q l)).2 h

theorem pipeAfter_idle (c : Params) (p : Port) (Q : PipeView → Prop) (ha : AnyOk c Q) :
    ∀ (l : List (Port × AppCall)) (v : PipeView), Q v →
    PipeAfter c p (l.flatMap fun x => appTasks x.1 [x.2]) Q v := by
  intro l
  induction l with
  | nil => intro v h; exact h
  | cons x l ih =>
    intro v h
    rw [List.flatMap_cons, pipeAfter_append]
    exact pipeAfter_appTasks _ _ _ _ _ _ (fun w hw => ih w (ha w hw)) (ih v h)

theorem pipeAfter_one (c : Params) (p q : Port) (t : Task) (ht : taskPort t = some q) (Q : PipeView → Prop) (v : PipeView)
    (h1 : p = q → PipeAfterTask c Q v t) (h2 : Q v) :
    PipeAfter c p [t] Q v := by
  by_cases e : p = q
  · subst e; rw [pipeAfter_cons _ _ _ _ _ _ ht]; exact h1 rfl
  · exact (pipeAfter_other c p q (Ne.symm e) Q v _ (by simp [ht])).2 h2

/-- The case of MAIN_STEP on the popped event (R181). -/
theorem pipeAfter_event (a : App) (ev : Option Event) (c : Params) (p : Port) (Q : PipeView → Prop) (v : PipeView)
    (hv : PipeOk c v) (ha : AnyOk c Q) :
    PipeAfter c p (eventTasks a ev) Q v := by
  have hq := ha v hv
  cases ev with
  | none => exact pipeAfter_idle c p Q ha _ v hq
  | some ev =>
    cases ev <;> simp only [eventTasks]
    case busReset q =>
      rw [show ∀ (t : Task) l, t :: l = [t] ++ l from fun _ _ => rfl, pipeAfter_append]
      have hA : AnyOk c (PipeAfter c p (appTasks q (appOnEvent a (.busReset q))) Q) := fun w hw => pipeAfter_appTasks _ _ _ _ _ _ ha (ha w hw)
      exact pipeAfter_one _ _ q _ rfl _ _ (fun _ => hA _ (pipeOk_cleared c v)) (hA _ hv)
    case receiveControl q e =>
      split
      · exact pipeAfter_one _ _ q _ rfl _ _ (fun _ => ha) hq
      · exact pipeAfter_appTasks _ _ _ _ _ _ ha hq
    case receivePacket q e =>
      split
      · exact pipeAfter_one _ _ q _ rfl _ _ (fun _ => ⟨hv, ha⟩) hq
      · exact pipeAfter_appTasks _ _ _ _ _ _ ha hq
    case sendComplete q e =>
      split
      · exact pipeAfter_one _ _ q _ rfl _ _ (fun _ => ⟨hv, ha⟩) hq
      · exact pipeAfter_appTasks _ _ _ _ _ _ ha hq
    case unknownInterrupt => simpa [PipeAfter, taskPort, PipeAfterTask] using hq
    case error => simpa [PipeAfter, taskPort, PipeAfterTask] using hq

theorem pipeView_popByte (p : Port) (f : ReadFifo) (s : State) : pipeView (popByte p f s) p = pipeView s p := by
  cases f
  · exact pipeView_callStep p .outPopByte s
  · exact pipeView_callStep p .ctrlPopByte s
theorem pipeView_push (p : Port) (b : Byte) (s : State) : pipeView (opInPushByte p b s) p = pipeView s p :=
  pipeView_callStep p (.inPushByte b) s

/-- A step of the port's own leaves the view as the work that follows it needs it. -/
theorem taskStep_pipeAfter {p : Port} {t : Task} (s : State) (hp : p < s.sw.length) (ht : taskPort t = some p)
    (Q : PipeView → Prop)
    (h : PipeAfterTask s.cfg Q (pipeView s p) t) :
    PipeAfter s.cfg p (taskStep t s).next Q (pipeView (taskStep t s).state p) := by
  cases t <;> simp only [taskPort, Option.some.injEq, reduceCtorEq] at ht <;> subst ht <;> simp only [PipeAfterTask] at h
  case sw p w =>
    simp only [taskStep, goOn, pipeAfter_nil, pipeView_swWrite hp]; exact h
  case call p o =>
    simp only [taskStep, pipeView_callStep]; exact pipeAfter_callStep _ _ _ _ _ _ h
  case log p k =>
    simp only [taskStep, goOn, pipeAfter_nil]
    rw [show pipeView (logPort p k s) p = pipeView s p by cases k <;> simp [logPort, pipeView, latched, hp]]; exact h
  case dropLine => exact h
  case bootConnect p =>
    simp only [taskStep, goOn]
    rw [pipeAfter_cons _ _ _ _ _ _ (by rfl)]; exact h
  case readQuery p f len buf ovf r =>
    simp only [taskStep, readQueryStep]
    split
    · simp only [goOn]; rw [pipeAfter_cons _ _ _ _ _ _ (by rfl)]; exact h
    · simp only [goOn]; rw [pipeAfter_cons _ _ _ _ _ _ (by rfl)]
      cases r <;> simp only [PipeAfterTask, PipeAfterRead, pipeAfter_nil] at h ⊢ <;> first | exact h | skip
      obtain ⟨a, b, c, d, e⟩ := h
      exact ⟨a, b, c, by omega, e⟩
  case readPop p f len buf ovf r =>
    simp only [taskStep, readPopStep]
    split
    · next hlt =>
      simp only [goOn, pipeView_popByte]; rw [pipeAfter_cons _ _ _ _ _ _ (by rfl)]
      simp only [PipeAfterTask, List.length_append, List.length_singleton]
      rw [show max len (buf.length + 1) = max len buf.length by omega]; exact h
    · simp only [goOn, pipeView_popByte]; rw [pipeAfter_cons _ _ _ _ _ _ (by rfl)]
      exact h
  case readReturn p buf ovf r =>
    have hv : ∀ s0, pipeView (readResult buf ovf r s0) p = pipeView s0 p := by intro s0; cases r <;> rfl
    have hl : pipeView (if 0 < ovf then logReadOverflow p ovf s else s) p = pipeView s p := by
      split
      · simp [logReadOverflow, pipeView, latched, hp]
      · rfl
    simp only [taskStep, readReturnStep, goOn, hv, hl]
    generalize hs : (if 0 < ovf then logReadOverflow p ovf s else s) = s1 at hl
    cases r <;> simp only [readReturnTasks, PipeAfterRead, pipeAfter_nil] at h ⊢
    case toCaller => exact h
    case discard => exact h
    case setup =>
      unfold setupReadTasks
      split
      · simp only [pipeAfter_cons _ _ _ _ _ _ (show taskPort (.log p .setupDropped) = some p from rfl), PipeAfterTask,
          pipeAfter_cons _ _ _ _ _ _ (show taskPort (.sw p (.cp .idle)) = some p from rfl), pipeAfter_nil]
        exact h.2 _ (pipeOk_stalled h.1)
      · simp only [pipeAfter_cons _ _ _ _ _ _ (show taskPort (.latch p _) = some p from rfl), PipeAfterTask,
          pipeAfter_cons _ _ _ _ _ _ (show taskPort (.dispatch p) = some p from rfl)]
        exact ⟨h.1, h.2⟩
    case statusOut => rw [pipeAfter_cons _ _ _ _ _ _ (by rfl)]; exact h
    case unexpected => rw [pipeAfter_cons _ _ _ _ _ _ (by rfl)]; exact h
    case dataOut =>
      obtain ⟨a, b, c, d, e⟩ := h
      unfold dataOutReadTasks
      rw [pipeAfter_cons _ _ _ _ _ _ (by rfl)]; simp only [PipeAfterTask]
      rw [pipeAfter_cons _ _ _ _ _ _ (by rfl)]; simp only [PipeAfterTask]
      rw [pipeAfter_cons _ _ _ _ _ _ (by rfl)]; simp only [PipeAfterTask]
      have e1 : (swOf s1 p).rxBuf = (pipeView s p).rxBuf := by rw [← hl]; rfl
      have e2 : (swOf s1 p).rxTotal = (pipeView s p).rxTotal := by rw [← hl]; rfl
      refine ⟨a, b, ?_, ?_, e⟩ <;> simp only [PipeView.assign, List.length_append, e1, e2] <;> omega
  case writeStart p ep bytes size r =>
    simp only [taskStep, writeStartStep]
    split
    · simp only [goOn]; rw [pipeAfter_cons _ _ _ _ _ _ (by rfl)]; simp only [PipeAfterTask]
      rw [pipeAfter_cons _ _ _ _ _ _ (by rfl)]; simp only [PipeAfterTask]
      exact pipeAfter_writeNext _ _ _ _ _ _ _ _ _ h
    · exact pipeAfter_writeNext _ _ _ _ _ _ _ _ _ h
  case writePush p ep size b rest i r =>
    simp only [taskStep, writePushStep]
    split
    · simp only [goOn, pipeView_push]; rw [pipeAfter_cons _ _ _ _ _ _ (by rfl)]; exact h
    · simp only [goOn, pipeView_push]; exact pipeAfter_writeNext _ _ _ _ _ _ _ _ _ h
  case writeBoundary p ep size rest i r =>
    simp only [taskStep, goOn]; rw [pipeAfter_cons _ _ _ _ _ _ (by rfl)]; exact h
  case writePoll p ep size rest i polls r =>
    simp only [taskStep, writePollStep]
    split
    · split
      · simp only [goOn]; rw [pipeAfter_cons _ _ _ _ _ _ (by rfl)]; simp only [PipeAfterTask]
        rw [pipeAfter_cons _ _ _ _ _ _ (by rfl)]; exact h
      · rw [pipeAfter_cons _ _ _ _ _ _ (by rfl)]; exact h
    · exact pipeAfter_writeNext _ _ _ _ _ _ _ _ _ h
  case writeFinal p ep r =>
    cases r <;> simp only [taskStep, goOn, writeOkTasks, writeResult, PipeAfterWrite, pipeAfter_nil] at h ⊢
    · exact h
    · exact h
    · rw [pipeAfter_cons _ _ _ _ _ _ (by rfl)]; exact h.1
  case writeExpired p r =>
    cases r <;> simp only [taskStep, goOn, writeExpiredTasks, writeResult, PipeAfterWrite, pipeAfter_nil] at h ⊢
    · exact h
    · exact h
    · rw [pipeAfter_cons _ _ _ _ _ _ (by rfl)]; exact h.2
  case latch p x =>
    simp only [taskStep, goOn, pipeAfter_nil]
    rw [show pipeView (latchSetup p x s) p = { pipeView s p with dir := directionOf (decSetup x) } by
      simp [latchSetup, pipeView, latched, hp]]
    exact h
  case dispatch p => simp only [taskStep, goOn]; rw [pipeAfter_cons _ _ _ _ _ _ (by rfl)]; exact h
  case request p hd => exact pipeAfter_request p s hd Q h.1 h.2
  case statusOfEndpoint => simp only [taskStep, goOn]; rw [pipeAfter_cons _ _ _ _ _ _ (by rfl)]; exact h
  case ackStatusStage p =>
    simp only [taskStep, goOn, ackStatusStageTasks]
    have h' := h
    unfold PipeView.acked at h'
    split <;> next hd =>
      rw [pipeAfter_cons _ _ _ _ _ _ (by rfl)]; simp only [PipeAfterTask]
      rw [pipeAfter_cons _ _ _ _ _ _ (by rfl)]; simp only [PipeAfterTask, pipeAfter_nil]
      simpa [pipeView, hd, PipeView.assign] using h'
  case stallControlRequest p =>
    simp only [taskStep, goOn, stallControlRequestTasks]
    rw [pipeAfter_cons _ _ _ _ _ _ (by rfl)]; simp only [PipeAfterTask]
    rw [pipeAfter_cons _ _ _ _ _ _ (by rfl)]; simp only [PipeAfterTask]
    rw [pipeAfter_cons _ _ _ _ _ _ (by rfl)]; exact h
  case sendResponse p bytes =>
    simp only [taskStep, goOn, sendResponseTasks]
    split
    · rw [pipeAfter_cons _ _ _ _ _ _ (by rfl)]; exact h.1
    · rw [pipeAfter_cons _ _ _ _ _ _ (by rfl)]; simp only [PipeAfterTask]
      rw [pipeAfter_cons _ _ _ _ _ _ (by rfl)]; exact h
  case dataOutBegin p =>
    simp only [taskStep, goOn, dataOutBeginTasks, clearRxTasks, List.cons_append, List.nil_append]
    repeat (rw [pipeAfter_cons _ _ _ _ _ _ (by rfl)]; simp only [PipeAfterTask])
    exact h
  case runHook p kind k data => exact pipeAfter_runHook _ _ _ _ _ _ _ h
  case receivePacket p =>
    obtain ⟨ok, ha⟩ := h
    simp only [taskStep, goOn, receivePacketTasks]
    split
    case h_2 hcp =>
      rw [pipeAfter_cons _ _ _ _ _ _ (by rfl)]
      obtain ⟨⟨r1, r2, r3⟩, hdf, _⟩ := ok
      refine ⟨hcp, ?_, r2, ?_, ha⟩
      · by_contra hn
        have h5 := hdf hn
        have h6 : (pipeView s p).cp = .dataOut := hcp
        simp [h6] at h5
      · have : (pipeView s p).rxBuf = (swOf s p).rxBuf := rfl
        rw [this] at r1 ⊢; simp; omega
    case h_1 hcp =>
      rw [pipeAfter_cons _ _ _ _ _ _ (by rfl)]
      obtain ⟨⟨r1, r2, r3⟩, hdf, _⟩ := ok
      have h6 : (pipeView s p).cp = .statusOut := hcp
      have h7 := r3 (by simp [h6])
      refine ha _ ⟨⟨r1, r2, fun _ => h7⟩, fun hn => ?_, by simp [AtRest]⟩
      have h5 := hdf hn
      simp [h6] at h5
    all_goals (rw [pipeAfter_cons _ _ _ _ _ _ (by rfl)]; exact ha _ ok)
  case receiveDecide p n =>
    obtain ⟨a, b, c, d, e⟩ := h
    simp only [taskStep, goOn, receiveDecideTasks]
    split
    · rw [pipeAfter_append]
      simp only [clearRxTasks]
      repeat (rw [pipeAfter_cons _ _ _ _ _ _ (by rfl)]; simp only [PipeAfterTask])
      rw [pipeAfter_nil]
      apply pipeAfter_runTypeHook
      have hc : PipeView.Clean (((pipeView s p).assign (.rxBuf [])).assign (.rxTotal 0)) := ⟨b, rfl, rfl⟩
      exact ⟨e _ (pipeOk_acked hc), e _ (pipeOk_stalled hc)⟩
    · rw [pipeAfter_cons _ _ _ _ _ _ (by rfl)]
      refine e _ ⟨⟨c, d, fun hn => absurd a hn⟩, fun hn => absurd b hn, .inr (.inl a)⟩
  case sendComplete p =>
    obtain ⟨ok, ha⟩ := h
    simp only [taskStep, goOn, sendCompleteTasks]
    split
    case h_1 hcp =>
      obtain ⟨⟨r1, r2, r3⟩, hdf, _⟩ := ok
      have h6 : (pipeView s p).cp = .statusIn := hcp
      have h7 := r3 (by simp [h6])
      split
      · next hd =>
        rw [pipeAfter_cons _ _ _ _ _ _ (by rfl)]
        exact ha _ ⟨⟨r1, r2, fun _ => h7⟩, fun hn => absurd hd hn, .inl rfl⟩
      · split
        · exact ha _ ⟨⟨r1, r2, r3⟩, hdf, .inr (.inr (.inl h6))⟩
        · repeat (rw [pipeAfter_cons _ _ _ _ _ _ (by rfl)]; simp only [PipeAfterTask])
          rw [pipeAfter_nil]
          exact ha _ ⟨⟨r1, r2, fun _ => h7⟩, fun hn => absurd rfl hn, .inl rfl⟩
    all_goals exact ha _ ok
  case readSpeed p => simp only [taskStep, goOn]; rw [pipeAfter_cons _ _ _ _ _ _ (by rfl)]; exact h
  case cteBusReset p =>
    simp only [taskStep, goOn, cteBusResetTasks, clearRxTasks, List.cons_append, List.nil_append]
    repeat (rw [pipeAfter_cons _ _ _ _ _ _ (by rfl)]; simp only [PipeAfterTask])
    exact h
  case cteReceiveControl p =>
    simp only [taskStep, goOn, cteReceiveControlTasks, clearRxTasks, List.cons_append, List.nil_append]
    repeat (rw [pipeAfter_cons _ _ _ _ _ _ (by rfl)]; simp only [PipeAfterTask, PipeAfterRead])
    exact ⟨⟨rfl, rfl, rfl⟩, h⟩
  case cteDisconnect p =>
    simp only [taskStep, goOn, cteDisconnectTasks, disconnectTasks, clearRxTasks, List.cons_append, List.nil_append]
    repeat (rw [pipeAfter_cons _ _ _ _ _ _ (by rfl)]; simp only [PipeAfterTask])
    exact h

/-- So does a step of the main loop itself. -/
theorem taskStep_pipeAfter_loop {p : Port} {t : Task} (s : State) (ht : taskPort t = none) (hm : mainTask t = true)
    (Q : PipeView → Prop)
    (h : PipeAfterTask s.cfg Q (pipeView s p) t) :
    PipeAfter s.cfg p (taskStep t s).next Q (pipeView (taskStep t s).state p) := by
  cases t <;> simp only [taskPort, mainTask, reduceCtorEq, Bool.false_eq_true] at ht hm <;> simp only [PipeAfterTask] at h
  case logUnknownInterrupt => exact h
  case logErrorEvent => exact h
  case mainPop => exact pipeAfter_event _ _ _ _ _ _ h.1 h.2

end Sys2Proof.Machine
end

