-- ==== Sys2Proof/Tests/Slice0.lean ====
section
/-! SUPPORT. The model's own tests: an ill-formed term for each check of WellFormed; a word for each row of the opcode
table, written out from its match value; single steps with results from 95_test_vectors.md; and, for each statement with
hypotheses, a state and operands that meet them. -/

namespace Sys2Proof.Tests

-- One theorem after the other: each kernel evaluation has a stack of its own, and many at once fill the memory.
set_option Elab.async false

open Sys2Proof Sys2Proof.Machine

/-! ## The test states -/

/-- The tables T0 of 95_test_vectors.md. -/
def tablesT0 : Tables where
  device := [0x12, 0x01, 0x00, 0x02, 0x00, 0x00, 0x00, 0x40, 0x50, 0x1D, 0x5C, 0x61, 0x00, 0x01, 0x01, 0x02, 0x03, 0x01]
  qualifier := none
  config := [((.high, 0), [0x09, 0x02, 0x09, 0x00, 0x00, 0x01, 0x00, 0x80, 0x32])]
  string := [(0, [0x04, 0x03, 0x09, 0x04])]
  configValid := [(.high, 1)]

/-- Q0 of 95_test_vectors.md: booted, connected at high speed, quiescent. -/
def q0 : State :=
  { State.reset with
    cfg := { Params.default with tables := tablesT0 }
    hw := State.reset.hw.map fun h => { h with ie := ⟨true, true, true, true⟩, connect := true, speed := .high }
    main := [] }

/-- Q0 with fields of HW[0] and of SW[0] changed. -/
def q (f : HwPort → HwPort) (g : SwPort → SwPort) : State := updSw 0 g (updHw 0 f q0)

/-- Q0 with the latch holding the first two bytes and the length given. -/
def qLatched (rt rq len : Byte) : State := q id (fun u => { u with x := ⟨rt, rq, 0, 0, 0, 0, len, 0⟩ })

/-- The state an instruction leaves. -/
def after (i : Instr) (s : State) : State :=
  match exec i s with
  | .next t => t
  | .fault _ => s
  | .refused _ => s

/-- The answer is a next state. -/
def isNext : Answer → Bool
  | .next _ => true
  | .fault _ => false
  | .refused _ => false

theorem next_after {i : Instr} {s : State} (h : isNext (exec i s) = true) : exec i s = .next (after i s) := by
  unfold after
  cases he : exec i s <;> simp_all [isNext]

/-- HW[0] and SW[0] after an instruction. -/
def hw0 (i : Instr) (s : State) : HwPort := hwOf (after i s) 0

def sw0 (i : Instr) (s : State) : SwPort := swOf (after i s) 0

/-- "reply B" of 95_test_vectors.md 2.4. -/
def Replies (b : List Byte) (i : Instr) (s : State) : Prop :=
  (after i s).g.obs = s.g.obs ++ [.inCommit 0 0 b.length, .outPrime 0 0] ∧ (hw0 i s).inFifo = b ∧ (sw0 i s).cp = .statusOut

/-- "ack" of 95_test_vectors.md 2.4, behind the entries of the request itself. -/
def Acks (l : List Obs) (i : Instr) (s : State) : Prop :=
  (after i s).g.obs = s.g.obs ++ l ++ [.inCommit 0 0 0] ∧ (hw0 i s).inFifo = [] ∧ (sw0 i s).cp = .statusIn

/-- "stall" of 95_test_vectors.md 2.4. -/
def Stalls (i : Instr) (s : State) : Prop :=
  (after i s).g.obs = s.g.obs ++ [.stallSet 0 .inp 0, .stallSet 0 .out 0] ∧ (sw0 i s).cp = .idle ∧
    (hw0 i s).inFlight = (hwOf s 0).inFlight

/-! ## WellFormed: each check refuses something -/

theorem test_ill_formed :
    (Instr.hostSetup 0 0 0 (List.replicate 65536 0)).wellFormed = false ∧
    (Instr.hostOutPacket 0 0 0 (List.replicate 65536 0)).wellFormed = false ∧
    (Instr.spuriousIrq 4294967296).wellFormed = false ∧ (Instr.irqUnknown 4294967296).wellFormed = false ∧
    (Instr.evqPush (.unknownInterrupt 4294967296)).wellFormed = false ∧
    (Instr.sendResponse 0 (List.replicate 65536 0)).wellFormed = false ∧
    (Instr.runHook 0 .classHook 0 (List.replicate 65536 0)).wellFormed = false ∧
    (Instr.read 0 .out 4294967296).wellFormed = false ∧ (Instr.write 0 0 [] 0).wellFormed = false ∧
    (Instr.write 0 0 [] 65537).wellFormed = false ∧ (Instr.write 0 0 (List.replicate 65536 0) 1).wellFormed = false := by
  simp only [Instr.wellFormed, fitsPort, fitsCount, fits32, fitsEvent, fitsSize, List.length_replicate]
  decide

/-- A port operand is one byte (log 27). -/
theorem test_ill_formed_ports :
    ∀ i ∈ ([.disconnect 256, .hostInTake 256 0 0, .irqBusReset 256, .evqPush (.busReset 256), .cteDispatch 256,
      .readControl 256, .reqGetStatus 256 ⟨0x80, 0, 0, 0, 2⟩, .reqSetAddress 256 ⟨0, 5, 0, 0, 0⟩] : List Instr),
    i.wellFormed = false := by decide +kernel

/-- Request rows with a packet of another row. -/
theorem test_ill_formed_requests :
    ∀ i ∈ ([.reqGetStatus 0 ⟨0, 1, 2, 0, 0⟩, .reqClearFeature 0 ⟨0, 1, 0, 0, 0⟩, .reqReservedStd2 0 ⟨0, 4, 0, 0, 0⟩,
      .reqSetFeature 0 ⟨0, 3, 1, 0, 0⟩, .reqReservedStd4 0 ⟨0, 2, 0, 0, 0⟩, .reqSetAddress 0 ⟨0x20, 5, 0, 0, 0⟩,
      .reqGetDescriptor 0 ⟨0, 6, 0x0100, 0, 0⟩, .reqSetDescriptor 0 ⟨0, 8, 0, 0, 0⟩, .reqGetConfiguration 0 ⟨0, 9, 0, 0, 0⟩,
      .reqSetConfiguration 0 ⟨0, 8, 0, 0, 0⟩, .reqGetInterface 0 ⟨0, 11, 0, 0, 0⟩, .reqSetInterface 0 ⟨0, 10, 0, 0, 0⟩,
      .reqSynchFrame 0 ⟨0, 13, 0, 0, 0⟩, .reqClassOrVendorStd13 0 ⟨0, 14, 0, 0, 0⟩,
      .reqClassOrVendorStd14To15 0 ⟨0, 16, 0, 0, 0⟩, .reqClassOrVendorStd16To31 0 ⟨0, 15, 0, 0, 0⟩,
      .reqClassOrVendorStd32To63 0 ⟨0, 31, 0, 0, 0⟩, .reqClassOrVendorStd64To127 0 ⟨0, 63, 0, 0, 0⟩,
      .reqClassOrVendorStd128To255 0 ⟨0, 127, 0, 0, 0⟩, .reqClassOrVendorClass 0 ⟨0x40, 0, 0, 0, 0⟩,
      .reqClassOrVendorVendor 0 ⟨0x60, 0, 0, 0, 0⟩, .reqReservedType3 0 ⟨0x20, 0, 0, 0, 0⟩,
      .reqGetDescriptorDevice 0 ⟨0, 6, 0x0200, 0, 0⟩, .reqGetDescriptorConfiguration 0 ⟨0, 6, 0x0100, 0, 0⟩,
      .reqGetDescriptorString 0 ⟨0, 6, 0x0600, 0, 0⟩, .reqGetDescriptorDeviceQualifier 0 ⟨0, 6, 0x0300, 0, 0⟩,
      .reqClearFeatureEndpointHalt 0 ⟨0, 1, 1, 0, 0⟩, .reqClearFeatureDeviceRemoteWakeup 0 ⟨0, 1, 0, 0, 0⟩,
      .reqSetFeatureEndpointHalt 0 ⟨0, 3, 1, 0, 0⟩, .reqSetFeatureDeviceRemoteWakeup 0 ⟨0, 3, 2, 0, 0⟩] : List Instr),
    i.wellFormed = false := by decide +kernel

/-- Rows of constants with a word of another row. -/
theorem test_ill_formed_constants :
    ∀ i ∈ ([.recipientDevice 1, .recipientInterface 0, .recipientEndpoint 3, .recipientOther 4, .recipientReserved4To7 8,
      .recipientReserved8To15 16, .recipientReserved16To31 15, .typeStandard 0x20, .typeClass 0x40, .typeVendor 0x60,
      .typeReserved 0x40, .directionHostToDevice 0x80, .directionDeviceToHost 0x7F, .requestClassOrVendor14To15 16,
      .requestClassOrVendor16To31 32, .requestClassOrVendor32To63 64, .requestClassOrVendor64To127 128,
      .requestClassOrVendor128To255 127, .epaddrOut 0x80, .epaddrIn 0x7F, .devAddrValid 128, .pend4BusReset 2,
      .pend4ReceiveControl 3, .pend4ReceivePacket 6, .pend4SendComplete 0, .pend4None 1] : List Instr),
    i.wellFormed = false := by decide +kernel

/-! ## Decode: a word for each row -/

/-- OPIDX 0x01 to 0x0A, operands zero (30_encoding.md R96). -/
theorem test_decode_functions : ∀ x ∈ ((
    [(0x01, .decRecipient 0), (0x02, .decType 0), (0x03, .decDirection 0), (0x04, .decRequest 0),
     (0x05, .decSetup ⟨0, 0, 0, 0, 0, 0, 0, 0⟩), (0x06, .encSetup ⟨0, 0, 0, 0, 0⟩),
     (0x07, .descSelect ⟨0, 0, 0, 0, 0⟩), (0x08, .featureSelect ⟨0, 0, 0, 0, 0⟩), (0x09, .epAddrSplit 0),
     (0x0A, .devAddr ⟨0, 0, 0, 0, 0⟩)] : List (Nat × Instr))),
    decodeTableWord 8 x.1 = some x.2 := by decide +kernel

/-- OPIDX 0x10 to 0x2A, operands zero (R96). -/
theorem test_decode_register : ∀ x ∈ ((
    [(0x10, .enableInterrupt 0 .ctl), (0x11, .disableInterrupt 0 .ctl), (0x12, .clearPending 0 .ctl),
     (0x13, .isPending 0 .ctl), (0x14, .connect 0 .high), (0x15, .disconnect 0), (0x16, .ctlSpeed 0),
     (0x17, .resetFifo 0 .epc), (0x18, .setAddress 0 0), (0x19, .stallIn 0 0), (0x1A, .stallOut 0 0),
     (0x1B, .unstallIn 0 0), (0x1C, .unstallOut 0 0), (0x1D, .clearHalt 0 0), (0x1E, .outHasData 0),
     (0x1F, .outPopByte 0), (0x20, .ctrlHasData 0), (0x21, .ctrlPopByte 0), (0x22, .ctrlEpno 0),
     (0x23, .outEpno 0), (0x24, .outPrime 0 0), (0x25, .inPushByte 0 0), (0x26, .inCommit 0 0),
     (0x27, .inIsIdle 0), (0x28, .inHasData 0), (0x29, .isStalled 0 .out 0), (0x2A, .inEpno 0)] : List (Nat × Instr))),
    decodeTableWord 8 x.1 = some x.2 := by decide +kernel

/-- OPIDX 0x30 to 0x48, operands zero (R96). -/
theorem test_decode_bus_dispatcher : ∀ x ∈ ((
    [(0x30, .hostBusReset 0 .high), (0x31, .hostSetup 0 0 0 []), (0x32, .hostOutPacket 0 0 0 []),
     (0x33, .hostInTake 0 0 0), (0x34, .hostSeesStall 0 0 .out 0), (0x35, .spuriousIrq 0), (0x40, .irqEntry),
     (0x41, .irqBusReset 0), (0x42, .irqReceiveControl 0), (0x43, .irqReceivePacket 0), (0x44, .irqSendComplete 0),
     (0x45, .irqUnknown 0), (0x46, .evqPush (.busReset 0)), (0x47, .evqPop), (0x48, .mainStep)] : List (Nat × Instr))),
    decodeTableWord 8 x.1 = some x.2 := by decide +kernel

/-- OPIDX 0x50 to 0x63, operands zero; a packet size field of 0 is the size 1 (R96; log 3). -/
theorem test_decode_engine_io : ∀ x ∈ ((
    [(0x50, .cteBusReset 0), (0x51, .cteReceiveControl 0), (0x52, .cteDispatch 0), (0x53, .ackStatusStage 0),
     (0x54, .stallControlRequest 0), (0x55, .sendResponse 0 []), (0x56, .dataOutBegin 0),
     (0x57, .cteReceivePacket 0), (0x58, .cteSendComplete 0), (0x59, .cteDisconnect 0),
     (0x5A, .runHook 0 .classHook 0 []), (0x60, .read 0 .out 0), (0x61, .write 0 0 [] 1), (0x62, .writeZlp 0 0),
     (0x63, .readControl 0)] : List (Nat × Instr))),
    decodeTableWord 8 x.1 = some x.2 := by decide +kernel

/-- SETUP64: the rows of single codes and of the code ranges; the feature rows with selector 2, which no sub-case has (R87, R99). -/
theorem test_decode_standard_requests : ∀ x ∈ ((
    [(0x0000000000000000, .reqGetStatus 0 ⟨0x00, 0x00, 0x0000, 0, 0⟩),
     (0x0000000000020100, .reqClearFeature 0 ⟨0x00, 0x01, 0x0002, 0, 0⟩),
     (0x0000000000000200, .reqReservedStd2 0 ⟨0x00, 0x02, 0x0000, 0, 0⟩),
     (0x0000000000020300, .reqSetFeature 0 ⟨0x00, 0x03, 0x0002, 0, 0⟩),
     (0x0000000000000400, .reqReservedStd4 0 ⟨0x00, 0x04, 0x0000, 0, 0⟩),
     (0x0000000000000500, .reqSetAddress 0 ⟨0x00, 0x05, 0x0000, 0, 0⟩),
     (0x0000000000000600, .reqGetDescriptor 0 ⟨0x00, 0x06, 0x0000, 0, 0⟩),
     (0x0000000000000700, .reqSetDescriptor 0 ⟨0x00, 0x07, 0x0000, 0, 0⟩),
     (0x0000000000000800, .reqGetConfiguration 0 ⟨0x00, 0x08, 0x0000, 0, 0⟩),
     (0x0000000000000900, .reqSetConfiguration 0 ⟨0x00, 0x09, 0x0000, 0, 0⟩),
     (0x0000000000000A00, .reqGetInterface 0 ⟨0x00, 0x0A, 0x0000, 0, 0⟩),
     (0x0000000000000B00, .reqSetInterface 0 ⟨0x00, 0x0B, 0x0000, 0, 0⟩),
     (0x0000000000000C00, .reqSynchFrame 0 ⟨0x00, 0x0C, 0x0000, 0, 0⟩),
     (0x0000000000000D00, .reqClassOrVendorStd13 0 ⟨0x00, 0x0D, 0x0000, 0, 0⟩),
     (0x0000000000000E00, .reqClassOrVendorStd14To15 0 ⟨0x00, 0x0E, 0x0000, 0, 0⟩),
     (0x0000000000001000, .reqClassOrVendorStd16To31 0 ⟨0x00, 0x10, 0x0000, 0, 0⟩),
     (0x0000000000002000, .reqClassOrVendorStd32To63 0 ⟨0x00, 0x20, 0x0000, 0, 0⟩),
     (0x0000000000004000, .reqClassOrVendorStd64To127 0 ⟨0x00, 0x40, 0x0000, 0, 0⟩),
     (0x0000000000008000, .reqClassOrVendorStd128To255 0 ⟨0x00, 0x80, 0x0000, 0, 0⟩)] : List (Nat × Instr))),
    decodeTableWord 64 x.1 = some x.2 := by decide +kernel

/-- SETUP64: the rows of the types, and the sub-cases, which are read before the row they lie in (R99, R88, R89; log 7). -/
theorem test_decode_types_and_subcases : ∀ x ∈ ((
    [(0x0000000000000020, .reqClassOrVendorClass 0 ⟨0x20, 0x00, 0x0000, 0, 0⟩),
     (0x0000000000000040, .reqClassOrVendorVendor 0 ⟨0x40, 0x00, 0x0000, 0, 0⟩),
     (0x0000000000000060, .reqReservedType3 0 ⟨0x60, 0x00, 0x0000, 0, 0⟩),
     (0x0000000001000600, .reqGetDescriptorDevice 0 ⟨0x00, 0x06, 0x0100, 0, 0⟩),
     (0x0000000002000600, .reqGetDescriptorConfiguration 0 ⟨0x00, 0x06, 0x0200, 0, 0⟩),
     (0x0000000003000600, .reqGetDescriptorString 0 ⟨0x00, 0x06, 0x0300, 0, 0⟩),
     (0x0000000006000600, .reqGetDescriptorDeviceQualifier 0 ⟨0x00, 0x06, 0x0600, 0, 0⟩),
     (0x0000000000000100, .reqClearFeatureEndpointHalt 0 ⟨0x00, 0x01, 0x0000, 0, 0⟩),
     (0x0000000000010100, .reqClearFeatureDeviceRemoteWakeup 0 ⟨0x00, 0x01, 0x0001, 0, 0⟩),
     (0x0000000000000300, .reqSetFeatureEndpointHalt 0 ⟨0x00, 0x03, 0x0000, 0, 0⟩),
     (0x0000000000010300, .reqSetFeatureDeviceRemoteWakeup 0 ⟨0x00, 0x03, 0x0001, 0, 0⟩)] : List (Nat × Instr))),
    decodeTableWord 64 x.1 = some x.2 := by decide +kernel

/-- Operand bytes in the order of the operation's arguments (log 3). -/
theorem test_decode_operands :
    ∀ x ∈ ([([0x10, 1, 3], .enableInterrupt 1 .inp), ([0x15, 0xFF], .disconnect 255), ([0x14, 0, 3], .connect 0 .superSpeed),
      ([0x17, 1, 2], .resetFifo 1 .out), ([0x18, 0, 42], .setAddress 0 42), ([0x1D, 0, 0x81], .clearHalt 0 0x81),
      ([0x29, 1, 1, 15], .isStalled 1 .inp 15), ([0x30, 0, 1], .hostBusReset 0 .full),
      ([0x32, 0, 5, 2, 2, 0, 0xAA, 0xBB], .hostOutPacket 0 5 2 [0xAA, 0xBB]), ([0x33, 1, 5, 3], .hostInTake 1 5 3),
      ([0x34, 0, 5, 1, 3], .hostSeesStall 0 5 .inp 3), ([0x35, 1, 0, 0, 0], .spuriousIrq 1),
      ([0x46, 3, 1, 7], .evqPush (.sendComplete 1 7)), ([0x46, 4, 0, 1, 0, 0], .evqPush (.unknownInterrupt 0x100)),
      ([0x55, 0, 1, 0, 0x7E], .sendResponse 0 [0x7E]), ([0x5A, 0, 2, 1, 0, 0], .runHook 0 .stringHook 1 []),
      ([0x60, 0, 0, 3, 0, 0, 0], .read 0 .out 3)] : List (List Byte × Instr)),
    decode .opidx x.1 = .ok (x.2, []) := by decide +kernel

/-- The rows of the request_type byte (30_encoding.md R82 to R84). -/
theorem test_decode_request_type :
    (∀ x ∈ ([(0x80, .recipientDevice 0x80), (0x21, .recipientInterface 0x21), (0x82, .recipientEndpoint 0x82),
      (0x03, .recipientOther 0x03), (0x64, .recipientReserved4To7 0x64), (0x0F, .recipientReserved8To15 0x0F),
      (0xFF, .recipientReserved16To31 0xFF)] : List (Byte × Instr)), decode .rt8Recipient [x.1] = .ok (x.2, [])) ∧
    (∀ x ∈ ([(0x82, .typeStandard 0x82), (0x21, .typeClass 0x21), (0xC3, .typeVendor 0xC3), (0x64, .typeReserved 0x64)]
      : List (Byte × Instr)), decode .rt8Type [x.1] = .ok (x.2, [])) ∧
    decode .rt8Direction [0x7F] = .ok (.directionHostToDevice 0x7F, []) ∧
    decode .rt8Direction [0x80] = .ok (.directionDeviceToHost 0x80, []) := by decide +kernel

/-- The rows of the request byte (R85), as table words where no operation has the same index. -/
theorem test_decode_request :
    (∀ x ∈ ([(0, .requestGetStatus), (1, .requestClearFeature), (2, .requestReserved2), (3, .requestSetFeature),
      (4, .requestReserved4), (5, .requestSetAddress), (6, .requestGetDescriptor), (7, .requestSetDescriptor),
      (8, .requestGetConfiguration), (9, .requestSetConfiguration), (10, .requestGetInterface), (11, .requestSetInterface),
      (12, .requestSynchronizeFrame), (13, .requestClassOrVendor13), (15, .requestClassOrVendor14To15 15),
      (31, .requestClassOrVendor16To31 31), (63, .requestClassOrVendor32To63 63), (0x7F, .requestClassOrVendor64To127 0x7F),
      (0xAB, .requestClassOrVendor128To255 0xAB)] : List (Byte × Instr)), decode .req8 [x.1] = .ok (x.2, [])) ∧
    decodeTableWord 8 0x0C = some .requestSynchronizeFrame ∧
    decodeTableWord 8 0x80 = some (.requestClassOrVendor128To255 0x80) := by decide +kernel

/-- The other rows of constants (R89, R91, R90, R96, R92, 00_scope.md R8), and words in none of them. -/
theorem test_decode_other_constants :
    (∀ x ∈ ([(.value16Feature, [0, 0], .featureEndpointHalt), (.value16Feature, [1, 0], .featureDeviceRemoteWakeup),
      (.value16DevAddr, [0x7F, 0], .devAddrValid 127), (.epaddr8, [0x0F], .epaddrOut 0x0F), (.epaddr8, [0x81], .epaddrIn 0x81),
      (.pend4, [0x0F], .pend4BusReset 0xF), (.pend4, [0x0E], .pend4ReceiveControl 0xE),
      (.pend4, [0x0C], .pend4ReceivePacket 0xC), (.pend4, [0x08], .pend4SendComplete 8), (.pend4, [0], .pend4None 0),
      (.event, [0], .eventBusReset), (.event, [1], .eventReceiveControl), (.event, [2], .eventReceivePacket),
      (.event, [3], .eventSendComplete), (.event, [4], .eventUnknownInterrupt), (.event, [5], .eventError),
      (.speed2, [0], .speedHigh), (.speed2, [1], .speedFull), (.speed2, [2], .speedLow), (.speed2, [3], .speedSuperspeed)]
      : List (View × List Byte × Instr)), decode x.1 x.2.1 = .ok (x.2.2, [])) ∧
    (∀ x ∈ ([(.value16Feature, [2, 0], .noRow .value16Feature), (.value16DevAddr, [0x80, 0], .noRow .value16DevAddr),
      (.event, [6], .noRow .event), (.setup64, [0, 0, 0, 0, 0, 0, 0], .noRow .setup64), (.opidx, [0x64], .unknownOperation 0x64),
      (.opidx, [0x15], .badOperands)] : List (View × List Byte × DecodeError)), decode x.1 x.2.1 = .error x.2.2) := by
  decide +kernel

/-! ## 41_setup_decode.md (vectors of 95_test_vectors.md 2.1) -/

theorem test_byte_decoders :
    (after (.decRecipient 0x64) q0).ret = .recipient (.reserved 4) ∧ (after (.decType 0x21) q0).ret = .requestType .classType ∧
    (after (.decDirection 0x7F) q0).ret = .direction .hostToDevice ∧ (after (.decRequest 4) q0).ret = .request (.reserved 4) ∧
    (after (.decRequest 13) q0).ret = .request (.classOrVendor 13) := by decide +kernel

theorem test_setup_codec :
    (after (.decSetup ⟨0xC0, 0x10, 0x34, 0x12, 0x78, 0x56, 0x00, 0x02⟩) q0).ret
      = .packet ⟨0xC0, 0x10, 0x1234, 0x5678, 0x0200⟩ ∧
    (after (.encSetup ⟨0x21, 0x09, 0x0200, 0x0001, 0x0140⟩) q0).ret
      = .setupBytes ⟨0x21, 0x09, 0x00, 0x02, 0x01, 0x00, 0x40, 0x01⟩ := by decide +kernel

theorem test_subfields :
    (after (.descSelect ⟨0, 6, 0x0302, 0x0409, 0⟩) q0).ret = .descriptor 3 2 0x0409 ∧
    (after (.featureSelect ⟨0, 1, 0x0100, 0, 0⟩) q0).ret = .feature (.unknown 256) ∧
    (after (.epAddrSplit 0xF1) q0).ret = .epAddr .inp 1 ∧ (after (.epAddrSplit 0x7F) q0).ret = .epAddr .out 15 ∧
    (after (.devAddr ⟨0, 5, 127, 0, 0⟩) q0).ret = .devAddr (some 127) ∧
    (after (.devAddr ⟨0, 5, 128, 0, 0⟩) q0).ret = .devAddr none := by decide +kernel

/-! ## 42_register_ops.md (vectors of 2.2) -/

theorem test_interrupt_bits :
    irqLine (after (.enableInterrupt 0 .epc) (q (fun h => { h with ie := .zero, pend := ⟨false, true, false, false⟩ }) id)) = true ∧
    (hw0 (.disableInterrupt 0 .inp) (q (fun h => { h with pend := ⟨false, false, false, true⟩ }) id)).pend.inp = true ∧
    (hw0 (.clearPending 0 .out) (q (fun h => { h with pend := ⟨true, true, true, true⟩ }) id)).pend = ⟨true, true, false, true⟩ ∧
    (after (.isPending 0 .inp) (q (fun h => { h with ie := .zero, pend := ⟨false, false, false, true⟩ }) id)).ret = .bool true := by
  decide +kernel

theorem test_connect_disconnect :
    (after (.connect 0 .full) (q (fun h => { h with connect := false }) id)).ret = .code 1 ∧
    (after (.connect 0 .full) q0).g.obs = [.connect 0] ∧
    (after (.disconnect 0) q0).g.obs = [.fifoReset 0 .epc, .fifoReset 0 .inp, .fifoReset 0 .out, .disconnect 0] ∧
    (hw0 (.disconnect 0) q0).ie = ⟨false, false, false, false⟩ ∧ (after (.ctlSpeed 0) q0).ret = .speed .high := by decide +kernel

theorem test_fifo_reset_and_address :
    (hw0 (.resetFifo 0 .inp) (q (fun h => { h with inFifo := [1, 2], inFlight := true }) id)).inFlight = false ∧
    (hw0 (.resetFifo 0 .out) (q (fun h => { h with pend := ⟨false, false, true, false⟩, outFifo := [0xAA] }) id)).pend.out = true ∧
    (hw0 (.setAddress 0 42) q0).outAddress = 42 ∧ (hw0 (.setAddress 0 42) q0).epcAddress = 42 ∧
    (sw0 (.setAddress 0 42) q0).address = 0 := by decide +kernel

theorem test_stall_and_halt :
    stallBit (hw0 (.stallIn 0 0) q0) .inp 0 = true ∧ stallBit (hw0 (.stallOut 0 3) q0) .inp 3 = false ∧
    stallBit (hw0 (.unstallIn 0 1) (q (fun h => { h with stallIn := setEpBit h.stallIn 1 true }) id)) .inp 1 = false ∧
    stallBit (hw0 (.unstallOut 0 1) (q (fun h => { h with stallIn := setEpBit h.stallIn 1 true }) id)) .inp 1 = true ∧
    (after (.clearHalt 0 0x81) (q (fun h => { h with pidIn := setEpBit h.pidIn 1 true }) id)).g.obs = [.haltClr 0 .inp 1] ∧
    pidBit (hw0 (.clearHalt 0 0x81) (q (fun h => { h with pidIn := setEpBit h.pidIn 1 true }) id)) .inp 1 = false ∧
    (after (.isStalled 0 .out 2) (q (fun h => { h with stallOut := setEpBit h.stallOut 2 true }) id)).ret = .bool true := by
  decide +kernel

theorem test_fifo_reads :
    (after (.outPopByte 0) (q (fun h => { h with outFifo := [0xAA, 0xBB] }) id)).ret = .byte 0xAA ∧
    (hw0 (.outPopByte 0) (q (fun h => { h with outFifo := [0xAA, 0xBB] }) id)).outFifo = [0xBB] ∧
    (hw0 (.outPopByte 0) q0).outFifo = [] ∧
    (hw0 (.ctrlPopByte 0) (q (fun h => { h with epcFifo := [1, 2] }) id)).epcFifo = [2] ∧
    (after (.ctrlHasData 0) q0).ret = .bool false ∧
    (after (.outHasData 0) (q (fun h => { h with outFifo := [0] }) id)).ret = .bool true ∧
    (after (.ctrlEpno 0) (q (fun h => { h with epcEpno := 5 }) id)).ret = .epno 5 ∧
    (after (.outEpno 0) (q (fun h => { h with outEpno := 6 }) id)).ret = .epno 6 := by decide +kernel

theorem test_in_and_out_writes :
    (sw0 (.inPushByte 0 0x77) (q (fun h => { h with inFifo := List.replicate 512 0 }) id)).ctrWriteOverflow = 1 ∧
    (hw0 (.inPushByte 0 0x77) q0).inFifo = [0x77] ∧ (after (.inCommit 0 3) q0).g.obs = [.inCommit 0 3 0] ∧
    (after (.inIsIdle 0) (after (.inCommit 0 3) q0)).ret = .bool false ∧
    (after (.inHasData 0) (after (.inCommit 0 3) q0)).ret = .bool false ∧
    (after (.inEpno 0) (after (.inCommit 0 3) q0)).ret = .epno 3 ∧
    epBit (hw0 (.outPrime 0 2) q0).outPrimed 2 = true := by decide +kernel

theorem test_host_moves :
    (hw0 (.hostBusReset 0 .full) q0).pend.ctl = true ∧
    stallBit (hw0 (.hostSetup 0 0 0 [0, 9]) (q (fun h => { h with stallIn := setEpBit h.stallIn 0 true }) id)) .inp 0 = false ∧
    (after (.hostSetup 0 5 0 [0x80]) q0).ret = .disabled ∧
    (hw0 (.hostSetup 0 0 0 [1, 2]) (q (fun h => { h with epcFifo := List.replicate 16 0 }) id)).epcFifo = List.replicate 16 0 ∧
    pidBit (hw0 (.hostOutPacket 0 0 2 [0xAA]) (q (fun h => { h with outPrimed := setEpBit h.outPrimed 2 true }) id)) .out 2 = true ∧
    (after (.hostOutPacket 0 0 0 []) q0).ret = .disabled := by decide +kernel

theorem test_host_in_and_stall :
    (hw0 (.hostInTake 0 0 0) (q (fun h => { h with inFifo := [1, 2], inFlight := true }) id)).pend.inp = true ∧
    (after (.hostInTake 0 0 0) (q (fun h => { h with inFifo := [1, 2], inFlight := true }) id)).g.obs = [.inPacket 0 0 [1, 2]] ∧
    (after (.hostInTake 0 0 0) (q (fun h => { h with inFlight := true, inEpno := 1 }) id)).ret = .disabled ∧
    (after (.hostSeesStall 0 0 .inp 0) (q (fun h => { h with stallIn := setEpBit h.stallIn 0 true }) id)).g.obs
      = [.hostStall 0 .inp 0] ∧
    irqEnabled (after (.spuriousIrq 1) q0) = true := by decide +kernel

/-- A port the machine does not have (log 34). -/
theorem test_absent_port : exec (.disconnect 2) q0 = .fault (.noSuchPort 2) := by
  have h : portExists 2 q0 = false := by decide +kernel
  simp [exec, execDisconnect, onPort, h]

/-- NPORTS = 3 and NEP = 4: port 2 is there, with its slice of the raw bitmap (R94); a stall bit beyond NEP is not (log 35). -/
theorem test_other_parameters :
    let s := State.powerOn { Params.default with nports := 3, nep := 4 }
    isNext (exec (.isPending 2 .epc) s) = true ∧
    (after (.irqUnknown 1) (updHw 2 (fun h => { h with pend := ⟨false, true, false, false⟩ }) s)).g.evq
      = [.unknownInterrupt 0x1200] ∧
    stallBit (hw0 (.stallIn 0 3) s) .inp 3 = true ∧ stallBit (hw0 (.stallIn 0 4) s) .inp 4 = false := by decide +kernel

/-! ## 43_dispatcher_queue.md (vectors of 2.3) -/

theorem test_irq_entry :
    (after .irqEntry (q (fun h => { h with pend := ⟨true, true, true, true⟩ }) id)).g.evq = [.busReset 0] ∧
    (hw0 .irqEntry (q (fun h => { h with pend := ⟨true, true, true, true⟩ }) id)).pend = ⟨false, true, true, true⟩ ∧
    (after .irqEntry (q (fun h => { h with pend := ⟨false, false, true, true⟩, outEpno := 2 }) id)).g.evq
      = [.receivePacket 0 2] ∧
    (after .irqEntry (after (.spuriousIrq 1) q0)).g.evq = [.unknownInterrupt 0x100] := by decide +kernel

theorem test_irq_handlers :
    (hw0 (.irqBusReset 0) (q (fun h => { h with ie := ⟨true, true, false, true⟩, epcFifo := [1] }) id)).ie
      = ⟨true, true, false, true⟩ ∧
    (hw0 (.irqBusReset 0) (q (fun h => { h with epcFifo := [1] }) id)).epcFifo = [] ∧
    (after (.irqReceiveControl 0) (q (fun h => { h with epcEpno := 4 }) id)).g.evq = [.receiveControl 0 4] ∧
    (after (.irqReceivePacket 0) (q (fun h => { h with outEpno := 2 }) id)).g.evq = [.receivePacket 0 2] ∧
    (sw0 (.irqSendComplete 0) (q (fun h => { h with inEpno := 1 }) (fun u => { u with pendingTxAck := true }))).pendingTxAck
      = false ∧
    (after (.irqSendComplete 0) (q (fun h => { h with inEpno := 1 }) id)).g.evq = [.sendComplete 0 1] ∧
    (after (.irqUnknown 1) (q (fun h => { h with pend := ⟨false, true, false, false⟩ }) id)).g.evq = [.unknownInterrupt 0x102] := by
  decide +kernel

theorem test_queue :
    (after (.evqPush .error) { q0 with g := { q0.g with evq := List.replicate 31 .error } }).g.evq.length = 32 ∧
    (after (.evqPush (.busReset 0)) { q0 with g := { q0.g with evq := List.replicate 32 .error } }).g.fatal = true ∧
    (after .evqPop q0).ret = .event none ∧
    (after .evqPop { q0 with g := { q0.g with evq := [.busReset 1, .error] } }).ret = .event (some (.busReset 1)) := by
  decide +kernel

theorem test_main_step :
    (after .mainStep { q0 with g := { q0.g with evq := [.unknownInterrupt 0x100] } }).g.ctrUnknownIrq = 1 ∧
    (after .mainStep { q0 with g := { q0.g with evq := [.error] } }).g.ctrError = 1 ∧
    hw0 .mainStep { q (fun h => { h with outFifo := [9] }) id with g := { q0.g with evq := [.receivePacket 0 2] } }
      = hwOf (q (fun h => { h with outFifo := [9] }) id) 0 := by decide +kernel

/-! ## 44_control_engine.md (vectors of 2.4) -/

theorem test_engine_resets :
    (after (.cteBusReset 0) (q id (fun u => { u with cp := .statusIn, address := 42, deferredAddress := some 7 }))).g.obs
      = [.addrWrite 0 0] ∧
    (sw0 (.cteBusReset 0) (q id (fun u => { u with cp := .statusIn, deferredAddress := some 7 }))).deferredAddress = none ∧
    (after (.cteDisconnect 0) (q id (fun u => { u with cp := .statusOut, address := 42 }))).g.obs
      = [.fifoReset 0 .epc, .fifoReset 0 .inp, .fifoReset 0 .out, .disconnect 0, .addrWrite 0 0] := by decide +kernel

theorem test_receive_control :
    (sw0 (.cteReceiveControl 0) (q (fun h => { h with epcFifo := [0x80, 6, 0] }) id)).ctrSetupDropped = 1 ∧
    Replies [0x00] (.cteReceiveControl 0) (q (fun h => { h with epcFifo := [0x80, 8, 0, 0, 0, 0, 1, 0, 9, 9] }) id) ∧
    (sw0 (.cteReceiveControl 0) (q (fun h => { h with epcFifo := [0x80, 8, 0, 0, 0, 0, 1, 0, 9, 9] }) id)).ctrReadOverflow = 2 := by
  unfold Replies
  decide +kernel

theorem test_dispatch_and_endings :
    Stalls (.cteDispatch 0) (q id (fun u => { u with x := ⟨0x40, 0xAB, 0, 0, 0, 0, 0, 0⟩ })) ∧
    Acks [] (.ackStatusStage 0) q0 ∧
    (after (.ackStatusStage 0) (q id (fun u => { u with x := ⟨0x80, 0, 0, 0, 0, 0, 0, 0⟩ }))).g.obs = [.outPrime 0 0] ∧
    Stalls (.stallControlRequest 0) q0 ∧
    Replies [0x12, 0x01] (.sendResponse 0 [0x12, 0x01, 0x00]) (q id (fun u => { u with x := ⟨0x80, 6, 0, 1, 0, 0, 2, 0⟩ })) ∧
    (sw0 (.dataOutBegin 0) q0).cp = .dataOut := by
  unfold Stalls Acks Replies
  decide +kernel

/-- A reply of more than one packet waits for the host after the first; when the budget is used up it is rejected (R197). -/
theorem test_send_response_packets :
    let s := { qLatched 0x80 6 16 with cfg := { q0.cfg with ep0Mps := ⟨8, 8, 8, 512⟩, writeWaitBudget := none } }
    let b := { qLatched 0x80 6 16 with cfg := { q0.cfg with ep0Mps := ⟨8, 8, 8, 512⟩, writeWaitBudget := some 1 } }
    (after (.sendResponse 0 [1, 2, 3, 4, 5, 6, 7, 8, 9]) s).g.obs = [.inCommit 0 0 8] ∧
    (after (.sendResponse 0 [1, 2, 3, 4, 5, 6, 7, 8, 9]) s).main ≠ [] ∧
    (after (.sendResponse 0 [1, 2, 3, 4, 5, 6, 7, 8, 9]) b).g.obs = [.inCommit 0 0 8, .stallSet 0 .inp 0, .stallSet 0 .out 0] ∧
    (sw0 (.sendResponse 0 [1, 2, 3, 4, 5, 6, 7, 8, 9]) b).ctrWaitExpired = 1 := by decide +kernel

theorem test_receive_packet :
    (sw0 (.cteReceivePacket 0) (q id (fun u => { u with cp := .statusOut }))).cp = .idle ∧
    (sw0 (.cteReceivePacket 0) (q (fun h => { h with outFifo := [1] }) id)).ctrUnexpected = 1 ∧
    (after (.cteReceivePacket 0) (q (fun h => { h with outFifo := List.replicate 64 7 })
      (fun u => { u with x := ⟨0x21, 9, 0, 0, 0, 0, 0x80, 0⟩, cp := .dataOut }))).g.obs = [.outPrime 0 0] ∧
    Stalls (.cteReceivePacket 0) (q (fun h => { h with outFifo := [7] })
      (fun u => { u with x := ⟨0x21, 9, 0, 0, 0, 0, 0x80, 0⟩, cp := .dataOut })) := by
  unfold Stalls
  decide +kernel

theorem test_send_complete :
    (after (.cteSendComplete 0) (q id (fun u => { u with cp := .statusIn, deferredAddress := some 42 }))).g.obs = [.addrWrite 0 42] ∧
    (after (.cteSendComplete 0)
      (q id (fun u => { u with cp := .statusIn, deferredAddress := some 42, pendingTxAck := true }))).g.obs = [] := by
  decide +kernel

/-- A hook that answers one call with two bytes and has consumed every other request (44_control_engine.md R211). -/
def hook : Hook := ⟨[(⟨0, ⟨0xC0, 1, 0, 0, 4⟩, 1, []⟩, .respond [5, 6])], .consumed [.writeZlp 0]⟩

/-- Q0 with a vendor hook and a class hook, and a packet latched. -/
def qHook (x : SetupBytes) : State :=
  { q id (fun u => { u with x := x }) with cfg := { q0.cfg with hooks := ⟨some hook, some hook, some hook⟩ } }

/-- The operations of a consumed request, in their order, before the status stage (R211). -/
theorem test_run_hook_consumed :
    let s := { q0 with cfg := { q0.cfg with hooks := ⟨some ⟨[], .consumed [.outPrime 2, .stallIn 3]⟩, none, none⟩ } }
    (after (.runHook 0 .classHook 1 []) s).g.obs = [.outPrime 0 2, .stallSet 0 .inp 3] ∧
    (sw0 (.runHook 0 .classHook 1 []) s).cp = .statusIn := by decide +kernel

theorem test_run_hook :
    Replies [5, 6] (.runHook 0 .vendorHook 1 []) (qHook ⟨0xC0, 1, 0, 0, 0, 0, 4, 0⟩) ∧
    Acks [] (.runHook 0 .vendorHook 2 []) (qHook ⟨0x40, 2, 0, 0, 0, 0, 0, 0⟩) ∧
    Stalls (.runHook 0 .stringHook 1 []) q0 := by
  unfold Replies Acks Stalls
  decide +kernel

/-! ## Request rows (vectors of 2.4) -/

theorem test_get_status :
    Replies [0x02, 0x00] (.reqGetStatus 0 ⟨0x80, 0, 0, 0, 2⟩) (q id (fun u => { u with remoteWakeup := true })) ∧
    Replies [0x00] (.reqGetStatus 0 ⟨0x80, 0, 0, 0, 1⟩) q0 ∧
    Replies [0x01, 0x00] (.reqGetStatus 0 ⟨0x82, 0, 0, 0x81, 2⟩) (q (fun h => { h with stallIn := setEpBit h.stallIn 1 true }) id) ∧
    Stalls (.reqGetStatus 0 ⟨0x83, 0, 0, 0, 2⟩) q0 := by
  unfold Replies Stalls
  decide +kernel

theorem test_features :
    Acks [.stallClr 0 .inp 1, .haltClr 0 .inp 1] (.reqClearFeatureEndpointHalt 0 ⟨0x02, 1, 0, 0x81, 0⟩) q0 ∧
    (sw0 (.reqSetFeatureDeviceRemoteWakeup 0 ⟨0x00, 3, 1, 0, 0⟩) q0).remoteWakeup = true ∧
    (sw0 (.reqClearFeatureDeviceRemoteWakeup 0 ⟨0x00, 1, 1, 0, 0⟩) (q id (fun u => { u with remoteWakeup := true }))).remoteWakeup
      = false ∧
    Acks [.stallSet 0 .out 2] (.reqSetFeatureEndpointHalt 0 ⟨0x02, 3, 0, 0x02, 0⟩) q0 ∧
    Stalls (.reqSetFeature 0 ⟨0x00, 3, 2, 0, 0⟩) q0 ∧ Stalls (.reqClearFeature 0 ⟨0x00, 1, 2, 0, 0⟩) q0 := by
  unfold Acks Stalls
  decide +kernel

theorem test_set_address :
    Acks [] (.reqSetAddress 0 ⟨0x00, 5, 0x002A, 0, 0⟩) q0 ∧
    (sw0 (.reqSetAddress 0 ⟨0x00, 5, 0x007F, 0, 0⟩) q0).deferredAddress = some 127 ∧
    (hw0 (.reqSetAddress 0 ⟨0x00, 5, 0x007F, 0, 0⟩) q0).epcAddress = 0 ∧ Stalls (.reqSetAddress 0 ⟨0x00, 5, 0x0080, 0, 0⟩) q0 := by
  unfold Acks Stalls
  decide +kernel

theorem test_get_descriptor :
    Replies tablesT0.device (.reqGetDescriptorDevice 0 ⟨0x80, 6, 0x0100, 0, 0x40⟩) q0 ∧
    Replies [0x12, 0x01, 0x00, 0x02, 0x00, 0x00, 0x00, 0x40] (.reqGetDescriptorDevice 0 ⟨0x80, 6, 0x0100, 0, 8⟩) q0 ∧
    Replies [0x09, 0x02, 0x09, 0x00, 0x00, 0x01, 0x00, 0x80, 0x32] (.reqGetDescriptorConfiguration 0 ⟨0x80, 6, 0x0200, 0, 9⟩) q0 ∧
    Replies [0x04, 0x03, 0x09, 0x04] (.reqGetDescriptorString 0 ⟨0x80, 6, 0x0300, 0, 0xFF⟩) q0 ∧
    Stalls (.reqGetDescriptorDeviceQualifier 0 ⟨0x80, 6, 0x0600, 0, 10⟩) q0 ∧
    Stalls (.reqGetDescriptor 0 ⟨0x80, 6, 0x0500, 0, 9⟩) q0 := by
  unfold Replies Stalls
  decide +kernel

theorem test_configuration_and_interface :
    (sw0 (.reqSetConfiguration 0 ⟨0x00, 9, 0xFF01, 0, 0⟩) q0).configValue = 1 ∧
    Stalls (.reqSetConfiguration 0 ⟨0x00, 9, 0x0002, 0, 0⟩) q0 ∧
    Replies [1] (.reqGetConfiguration 0 ⟨0x80, 8, 0, 0, 1⟩) (q id (fun u => { u with configValue := 1 })) ∧
    Stalls (.reqGetInterface 0 ⟨0x81, 10, 0, 0, 1⟩) q0 ∧
    Replies [0] (.reqGetInterface 0 ⟨0x81, 10, 0, 0, 1⟩) (q id (fun u => { u with configValue := 1 })) ∧
    Acks [] (.reqSetInterface 0 ⟨0x01, 11, 0, 0, 0⟩) (q id (fun u => { u with configValue := 1 })) ∧
    Stalls (.reqSetInterface 0 ⟨0x01, 11, 1, 0, 0⟩) (q id (fun u => { u with configValue := 1 })) := by
  unfold Replies Acks Stalls
  decide +kernel

theorem test_rejected_requests :
    ∀ i ∈ ([.reqReservedStd2 0 ⟨0x80, 2, 0, 0, 0⟩, .reqReservedStd4 0 ⟨0x80, 4, 0, 0, 0⟩, .reqSetDescriptor 0 ⟨0, 7, 0, 0, 0⟩,
      .reqSynchFrame 0 ⟨0x82, 12, 0, 0, 2⟩, .reqReservedType3 0 ⟨0x60, 0, 0, 0, 0⟩, .reqClassOrVendorStd13 0 ⟨0, 13, 0, 0, 0⟩,
      .reqClassOrVendorStd14To15 0 ⟨0, 14, 0, 0, 0⟩, .reqClassOrVendorStd16To31 0 ⟨0, 16, 0, 0, 0⟩,
      .reqClassOrVendorStd32To63 0 ⟨0, 32, 0, 0, 0⟩, .reqClassOrVendorStd64To127 0 ⟨0, 64, 0, 0, 0⟩,
      .reqClassOrVendorStd128To255 0 ⟨0, 255, 0, 0, 0⟩, .reqClassOrVendorClass 0 ⟨0x21, 9, 0, 0, 0⟩,
      .reqClassOrVendorVendor 0 ⟨0x40, 0xAB, 0, 0, 0⟩] : List Instr), Stalls i q0 := by
  unfold Stalls
  decide +kernel

theorem test_hooked_request :
    Replies [5, 6] (.reqClassOrVendorVendor 0 ⟨0xC0, 1, 0, 0, 4⟩) (qHook ⟨0, 0, 0, 0, 0, 0, 0, 0⟩) ∧
    (sw0 (.reqClassOrVendorClass 0 ⟨0x21, 9, 0, 0, 8⟩) (qHook ⟨0, 0, 0, 0, 0, 0, 0, 0⟩)).cp = .dataOut := by
  unfold Replies
  decide +kernel

/-! ## 45_endpoint_io.md (vectors of 2.5) -/

theorem test_read :
    (after (.read 0 .out 3) (q (fun h => { h with outFifo := [1, 2, 3, 4, 5] }) id)).ret = .read [1, 2, 3] 3 2 ∧
    (sw0 (.read 0 .out 3) (q (fun h => { h with outFifo := [1, 2, 3, 4, 5] }) id)).ctrReadOverflow = 2 ∧
    (after (.readControl 0) (q (fun h => { h with epcFifo := [1, 2, 3, 4, 5, 6, 7] }) id)).ret = .read [1, 2, 3, 4, 5, 6, 7] 7 0 := by
  decide +kernel

theorem test_write :
    (after (.write 0 0 [1] 64) (q (fun h => { h with inFifo := [9, 9] }) id)).g.obs = [.fifoReset 0 .inp, .inCommit 0 0 1] ∧
    (after (.write 0 3 (List.replicate 18 7) 64) q0).ret = .writeOk ∧
    (after (.write 0 1 [1, 2, 3] 2) q0).main ≠ [] ∧
    (sw0 (.write 0 0 [1, 2, 3, 4, 5, 6] 16) { q0 with cfg := { q0.cfg with inFifoDepth := 4 } }).ctrWriteOverflow = 2 ∧
    (after (.writeZlp 0 0) (q (fun h => { h with inFlight := true }) id)).g.obs = [.inCommit 0 0 0] := by decide +kernel

theorem test_write_expired :
    (after (.write 0 1 [1, 2, 3] 2) { q0 with cfg := { q0.cfg with writeWaitBudget := some 1 } }).ret = .writeExpired := by
  decide +kernel

/-! ## Rows of constants -/

theorem test_constants :
    ∀ x ∈ ([(.recipientOther 0xC3, .recipient .other), (.recipientReserved16To31 0x1F, .recipient (.reserved 31)),
      (.typeVendor 0x40, .requestType .vendor), (.directionDeviceToHost 0x80, .direction .deviceToHost),
      (.requestGetInterface, .request .getInterface), (.requestClassOrVendor128To255 0xAB, .request (.classOrVendor 0xAB)),
      (.featureDeviceRemoteWakeup, .feature .deviceRemoteWakeup), (.epaddrIn 0x81, .epAddr .inp 1),
      (.devAddrValid 42, .devAddr (some 42)), (.pend4ReceiveControl 0xE, .irqHandler .receiveControl),
      (.eventSendComplete, .eventTag .sendComplete), (.speedSuperspeed, .speed .superSpeed)] : List (Instr × Ret)),
    (after x.1 q0).ret = x.2 := by decide +kernel

/-! ## Witnesses: states and operands that meet the hypotheses of each statement, at the ends of their ranges -/

/-- Q0 with a queue. -/
def qEvents (l : List Event) : State := { q0 with g := { q0.g with evq := l } }

/-- Q0 with every pending bit of port 0 clear but one. -/
def qPending (src : Source) : State := q (fun h => { h with pend := setSrcBit .zero src true }) id

theorem witness_DecodeEncodeRoundTrip :
    (Instr.write 1 15 [1, 2] 65536).wellFormed = true ∧ (Instr.write 0 0 [] 1).wellFormed = true ∧
    (Instr.read 0 .ctrl 4294967295).wellFormed = true ∧ (Instr.reqSetAddress 1 ⟨0x9F, 5, 0xFFFF, 0xFFFF, 0xFFFF⟩).wellFormed = true := by
  decide +kernel

theorem witness_RequestRowsSelectOneHandler :
    packetWord ⟨0x80, 6, 0x0100, 0, 18⟩ &&& rowMask .getDescriptor = rowPattern .getDescriptor ∧
    packetWord ⟨0x80, 6, 0x0100, 0, 18⟩ &&& rowMask .getDescriptorDevice = rowPattern .getDescriptorDevice ∧
    packetWord ⟨0x40, 0xAB, 0, 0, 0⟩ &&& rowMask .classOrVendorVendor = rowPattern .classOrVendorVendor := by decide +kernel

theorem witness_DecodeFunctionLaws :
    decDirection 0xFF = decDirection 0xFF ∧ decType 0xFF = decType 0xFF ∧ decRecipient 0xFF = decRecipient 0xFF := ⟨rfl, rfl, rfl⟩

theorem witness_ByteDecoders :
    (0xE3#8).toNat % 32 = 3 ∧ 4 ≤ (0x04#8).toNat % 32 ∧ 4 ≤ (0xFF#8).toNat % 32 ∧ (0x7F#8).toNat / 32 % 4 = 3 ∧
    (12#8).toNat = 12 ∧ 13 ≤ (13#8).toNat ∧ 13 ≤ (0xFF#8).toNat ∧ decRequest 13 = decRequest 13 := by decide

theorem witness_SubfieldSelectors :
    (⟨0, 5, 127, 0, 0⟩ : SetupPacket).value.toNat ≤ 127 ∧ 127 < (⟨0, 5, 128, 0, 0⟩ : SetupPacket).value.toNat := by decide

theorem witness_SetupByteRows :
    (0x20#8).toNat % 32 = 0 ∧ (0x03#8).toNat % 32 = 3 ∧ (4 ≤ (0x04#8).toNat % 32 ∧ (0x07#8).toNat % 32 ≤ 7) ∧
    (8 ≤ (0x08#8).toNat % 32 ∧ (0x0F#8).toNat % 32 ≤ 15) ∧ 16 ≤ (0x10#8).toNat % 32 ∧ 16 ≤ (0xFF#8).toNat % 32 ∧
    (0x1F#8).toNat / 32 % 4 = 0 ∧ (0xFF#8).toNat / 32 % 4 = 3 ∧ (0x7F#8).toNat < 128 ∧ 128 ≤ (0x80#8).toNat ∧
    (14 ≤ (14#8).toNat ∧ (15#8).toNat ≤ 15) ∧ (16 ≤ (16#8).toNat ∧ (31#8).toNat ≤ 31) ∧ (32 ≤ (32#8).toNat ∧ (63#8).toNat ≤ 63) ∧
    (64 ≤ (64#8).toNat ∧ (127#8).toNat ≤ 127) := by decide

theorem witness_OtherConstantRows :
    (0x7F#8).toNat < 128 ∧ 128 ≤ (0x80#8).toNat ∧ (127#16).toNat ≤ 127 ∧ (0xF#4).toNat % 2 = 1 ∧ (0xE#4).toNat % 4 = 2 ∧
    (0xC#4).toNat % 8 = 4 ∧ (8#4).toNat = 8 ∧ (0#4).toNat = 0 := by decide

theorem witness_StepRunsDecodedInstruction :
    decode .opidx [0x48] = .ok (.mainStep, []) ∧ decode .opidx [0x0B] = .error (.unknownOperation 0x0B) ∧
    (q0.stream = [] ∧ irqEnabled (qPending .inp) = true) ∧ (q0.irq = [] ∧ irqEnabled q0 = false) ∧
    decodeTableWord 8 0x48 = some .mainStep := by decide +kernel

/-- A property of every port of a state with two ports. -/
theorem forall_ports {P : Port → Prop} (h0 : P 0) (h1 : P 1) (h : ∀ n, P (n + 2)) : ∀ p, P p
  | 0 => h0
  | 1 => h1
  | n + 2 => h n

theorem inv_q0 : Inv q0 := ⟨forall_ports (by decide +kernel) (by decide +kernel) fun _ => rfl,
  forall_ports (by decide +kernel) (by decide +kernel) fun _ => ⟨Nat.zero_le _, Nat.zero_le _, Nat.zero_le _⟩,
  by unfold QueueFits; decide +kernel, by decide +kernel, by decide +kernel,
  ⟨by decide +kernel, by decide +kernel, by decide +kernel, by decide +kernel⟩⟩

/-- A port in Idle that has received and deferred nothing. -/
theorem pipeOk_idle (c : Params) (d : Direction) : PipeOk c ⟨.idle, none, [], 0, d⟩ :=
  ⟨⟨Nat.zero_le _, Nat.zero_le _, fun _ => ⟨rfl, rfl⟩⟩, fun h => absurd rfl h, .inl rfl⟩

theorem pipeInv_q0 : PipeInv q0 := forall_ports (pipeOk_idle _ _) (pipeOk_idle _ _) fun _ => pipeOk_idle _ _

theorem contexts_q0 : Contexts q0 := ⟨by decide +kernel, by decide +kernel⟩

theorem step_q0 : step q0 = .next (after .mainStep q0) := by
  have h : idleInstr q0 = .mainStep := by decide +kernel
  exact (congrArg (exec · q0) h).trans (next_after (by decide +kernel))

theorem witness_InvKeptByStep : Inv q0 ∧ ∃ t, step q0 = .next t := ⟨inv_q0, _, step_q0⟩

/-- Q0 in the middle of a handler run: cp DataIn, the acknowledgement still to come. -/
def qSuspended : State := { q id (fun u => { u with cp := .dataIn }) with main := [.ackStatusStage 0] }

/-- Between two iterations, and in the middle of a handler, where R41 (f) does not hold. -/
theorem witness_PipeInvKeptByEveryTurn :
    (Contexts q0 ∧ PipeInvWork q0 ∧ q0.main = [] ∧ ∃ t, exec .mainStep q0 = .next t) ∧
    (Contexts qSuspended ∧ PipeInvWork qSuspended ∧ (swOf qSuspended 0).cp = .dataIn ∧
      ∃ t, exec .mainStep qSuspended = .next t) ∧
    agentOf (.hostBusReset 0 .high) = .bus ∧ agentOf .irqEntry = .interrupt := by
  refine ⟨⟨contexts_q0, fun p _ => pipeInv_q0 p, rfl, _, next_after (by decide +kernel)⟩,
    ⟨⟨by decide +kernel, by decide +kernel⟩, forall_ports (fun _ => ?_) (fun _ => pipeOk_idle _ _) (fun _ _ => pipeOk_idle _ _), rfl, _,
      next_after (by decide +kernel)⟩, rfl, rfl⟩
  exact ⟨⟨Nat.zero_le _, Nat.zero_le _, fun _ => ⟨rfl, rfl⟩⟩, fun h => absurd rfl h, .inr (.inr (.inl rfl))⟩

theorem witness_InvariantsAtPowerOn :
    Params.Legal { Params.default with nports := 5, nep := 1, ctrlFifoDepth := 8, app := ⟨[(4, .reconnect)], []⟩ } :=
  ⟨by decide, by decide, by decide, by decide⟩

/-- Q0 with an application that reconnects port 0 when idle. -/
def qReconnect : State :=
  { q (fun h => { h with connect := false, ie := .zero, pend := ⟨true, false, true, false⟩, outFifo := [1] }) id with
    cfg := { q0.cfg with app := ⟨[(0, .reconnect)], []⟩ } }

theorem witness_BootReachesQuiescentState :
    (1 ≤ Params.default.nports ∧ 14 * Params.default.nports ≤ Config.turnSteps) ∧
    (Undisturbed 0 qReconnect 15 ∧ qReconnect.main = [] ∧ qReconnect.g.evq = [] ∧ qReconnect.cfg.app.idle = [(0, .reconnect)]) := by
  unfold Undisturbed Ready
  decide +kernel

/-- The sequence of R296, performed again on a port that was disconnected: no vector, its thirteen operations. -/
theorem test_reconnect :
    (hw0 .mainStep qReconnect).connect = true ∧ (hw0 .mainStep qReconnect).pend = .zero ∧
    (hw0 .mainStep qReconnect).ie = ⟨true, true, true, true⟩ ∧ (hw0 .mainStep qReconnect).outFifo = [] ∧
    (after .mainStep qReconnect).g.obs
      = [.fifoReset 0 .epc, .fifoReset 0 .inp, .fifoReset 0 .out, .addrWrite 0 0, .connect 0] := by decide +kernel

theorem witness_ContextsKeptByStep : Contexts q0 ∧ ∃ t, step q0 = .next t := ⟨contexts_q0, _, step_q0⟩

theorem witness_HaltedAndSuspendedContexts :
    ({ q0 with g := { q0.g with fatal := true } } : State).g.fatal = true ∧ agentOf .irqEntry = .interrupt ∧
    agentOf .mainStep = .main ∧ ({ q0 with irq := [.irqUnknown 0] } : State).irq ≠ [] ∧
    PortPresent (portOf .mainStep) q0 ∧ PortPresent (portOf (.disconnect 1)) q0 :=
  ⟨rfl, rfl, rfl, by decide, (fun _ h => nomatch h), fun p h => by cases h; decide +kernel⟩

theorem witness_DispatcherRunMayBeCut :
    ∃ u v, exec .irqEntry { qPending .ctl with quantum := some 3 } = .next u ∧ u.irq ≠ [] ∧ u.g.fatal = false ∧
      exec .irqEntry { qPending .ctl with quantum := some (3 + 9) } = .next v :=
  ⟨after .irqEntry { qPending .ctl with quantum := some 3 }, after .irqEntry { qPending .ctl with quantum := some (3 + 9) },
    next_after (by decide +kernel), by decide +kernel, by decide +kernel, next_after (by decide +kernel)⟩

theorem witness_agents :
    agentOf (.spuriousIrq 0) = .bus ∧ portOf (.setAddress 0 1) = some 0 ∧ (1 : Port) ≠ 0 ∧
    (∃ t, exec (.setAddress 0 1) q0 = .next t) ∧ (∃ t, exec (.irqUnknown 0) q0 = .next t) ∧
    portOf (.setAddress 2 1) = some 2 ∧ portExists 2 q0 = false ∧ PortPresent (portOf (.hostBusReset 1 .low)) q0 :=
  ⟨rfl, rfl, by decide, ⟨_, next_after (by decide +kernel)⟩, ⟨_, next_after (by decide +kernel)⟩, rfl, by decide +kernel,
    fun p h => by cases h; decide +kernel⟩

/-- For AddressWrittenOnSendCompleteOnly. -/
theorem witness_AddressWritten :
    let s := { qEvents [.sendComplete 0 0] with
      sw := (q id (fun u => { u with cp := .statusIn, deferredAddress := some 42 })).sw }
    s.main = [] ∧ s.cfg.hooks = ⟨none, none, none⟩ ∧ noSetAddress (s.cfg.app.idle.map (·.2)) = true ∧
    (∀ x ∈ s.cfg.app.onEvent, noSetAddress x.2 = true) ∧ isNext (exec .mainStep s) = true ∧
    (after .mainStep s).g.obs = s.g.obs ++ [.addrWrite 0 42] ∧ (42 : DevAddr) ≠ 0 := by decide +kernel

/-- The main context may step, and its turn is as long as any statement asks for: the hypotheses of the register layer's,
the engine's and the primitives' statements about Q0. -/
theorem witness_Undisturbed : mainEnabled q0 = true ∧ 100000 ≤ turnLength q0 ∧ Ready 1 q0 ∧ Undisturbed 0 q0 100000 := by
  unfold Undisturbed Ready
  decide +kernel

theorem witness_InterruptBitOperations :
    srcBit (hwOf (qPending .epc) 0).pend .epc = true ∧ Source.epc ≠ .ctl ∧ mainEnabled (qPending .epc) = true := by decide +kernel

theorem witness_StallAndHaltBits : (128 ≤ (0x80#8).toNat) ∧ (0x7F#8).toNat < 128 := by decide

theorem witness_FifoReads :
    (hwOf (q (fun h => { h with outFifo := [7] }) id) 0).outFifo = 7 :: [] ∧ (hwOf q0 0).outFifo = [] ∧
    (hwOf (q (fun h => { h with epcFifo := [7] }) id) 0).epcFifo = 7 :: [] ∧ (hwOf q0 0).epcFifo = [] := by decide +kernel

theorem witness_InAndOutWrites :
    (hwOf q0 0).inFifo.length < q0.cfg.inFifoDepth ∧
    ({ q0 with cfg := { q0.cfg with inFifoDepth := 0 } } : State).cfg.inFifoDepth ≤ (hwOf q0 0).inFifo.length := by decide +kernel

theorem witness_HostMoves :
    (hwOf q0 0).connect = true ∧ (0 : DevAddr) = (hwOf q0 0).epcAddress ∧
    hostOutGuard 0 0 15 (q (fun h => { h with outPrimed := setEpBit h.outPrimed 15 true }) id) = true ∧
    hostInGuard 0 0 15 (q (fun h => { h with inFlight := true, inEpno := 15 }) id) = true ∧
    hostSeesStallGuard 0 0 .out 15 (q (fun h => { h with stallOut := setEpBit h.stallOut 15 true }) id) = true ∧
    hostSeesStallGuard 0 0 .inp 0 (q (fun h => { h with stallIn := setEpBit h.stallIn 0 true }) id) = true := by decide +kernel

theorem witness_UnmetGuardNoEffect :
    portExists 0 q0 = true ∧ (hwOf (q (fun h => { h with connect := false }) id) 0).connect = false ∧
    (1 : DevAddr) ≠ (hwOf q0 0).epcAddress ∧ (127 : DevAddr) ≠ (hwOf q0 0).outAddress ∧
    epBit (hwOf q0 0).outPrimed 0 = false ∧ (hwOf q0 0).inFlight = false ∧ stallBit (hwOf q0 0) .inp 0 = false := by decide +kernel

theorem firstPending_qPending (src : Source) : FirstPending (qPending src) 0 src := by
  cases src <;> refine ⟨by decide +kernel, ?_⟩ <;> intro p o h <;> rcases h with h | ⟨rfl, h⟩ <;>
    first
      | exact absurd h (Nat.not_lt_zero _)
      | (cases o <;> first | exact absurd h (by decide) | decide +kernel)

theorem witness_EntryServesFirstPending :
    irqEnabled (qPending .inp) = true ∧ (qPending .inp).irq = [] ∧
    4 * (qPending .inp).hw.length + 16 ≤ turnLength (qPending .inp) ∧
    (qPending .inp).g.evq.length < (qPending .inp).cfg.evqCapacity ∧
    irqEnabled { q0 with spurious := some 1 } = true ∧ ∀ (p : Port) (o : Source), srcBit (hwOf q0 p).pend o = false :=
  ⟨by decide +kernel, rfl, by decide +kernel, by decide +kernel, by decide +kernel,
    forall_ports (fun o => by cases o <;> rfl) (fun o => by cases o <;> rfl) fun _ o => by cases o <;> rfl⟩

theorem witness_dispatcher :
    q0.g.fatal = false ∧ 12 ≤ turnLength q0 ∧ q0.g.evq.length < q0.cfg.evqCapacity ∧
    (qEvents (List.replicate 32 .error)).g.evq.length = (qEvents []).cfg.evqCapacity ∧
    (qEvents [.error, .error]).g.evq = .error :: [.error] ∧ mainEnabled (qEvents []) = true := by decide +kernel

theorem witness_MainStepRoutes :
    let s := qEvents [.receiveControl 0 0]
    let a := { qEvents [.sendComplete 0 15] with
      cfg := { q0.cfg with app := ⟨[], [(.sendComplete 0 15, [.op (.stallIn 15), .op (.outPrime 15)]), (.receivePacket 0 1, [.cteDisconnect])]⟩ } }
    (mainEnabled s = true ∧ s.main = [] ∧ s.g.evq = .receiveControl 0 0 :: [] ∧ portExists 0 s = true ∧
      turnLength s = 1048575 + 1) ∧
    (mainEnabled a = true ∧ appOnEvent a.cfg.app (.sendComplete 0 15) = [PortOp.stallIn 15, .outPrime 15].map .op ∧
      [PortOp.stallIn 15, .outPrime 15].all isOneStep = true ∧ (15 : EpNo) ≠ 0 ∧
      appOnEvent a.cfg.app (.receivePacket 0 1) = [.cteDisconnect]) ∧
    appOnEvent q0.cfg.app (.busReset 0) = [] ∧ q0.cfg.app.idle = [] ∧ q0.g.evq = [] := by decide +kernel

theorem witness_UnknownAndErrorCounted :
    mainEnabled (qEvents [.unknownInterrupt 0x100]) = true ∧ (qEvents [.error]).main = [] ∧ 2 ≤ turnLength (qEvents [.error]) := by
  decide +kernel

theorem witness_EngineReceiveControl :
    let s := q (fun h => { h with epcFifo := [1, 2, 3, 4, 5, 6, 7, 8] }) id
    (hwOf (q (fun h => { h with epcFifo := [1, 2, 3, 4, 5, 6, 7] }) id) 0).epcFifo.length < 8 ∧ (hwOf q0 0).epcFifo.length < 8 ∧
    Ready 0 s ∧ (hwOf s 0).epcFifo = [1, 2, 3, 4, 5, 6, 7, 8] ++ [] ∧
    turnLength s = 1048552 + (2 * (hwOf s 0).epcFifo.length + 8) := by
  unfold Ready
  decide +kernel

theorem witness_DispatchSelectsRow :
    turnLength q0 ≠ 0 ∧ latched (q id (fun u => { u with x := ⟨0x40, 0xAB, 0, 0, 0, 0, 0, 0⟩ })) 0 = ⟨0x40, 0xAB, 0, 0, 0⟩ ∧
    q0.cfg.hooks.vendorHook = none := by decide +kernel

theorem witness_HandlerEndings :
    (swOf (qLatched 0x80 0 0) 0).x.x0.getLsbD 7 = true ∧ (swOf (qLatched 0x7F 0 0) 0).x.x0.getLsbD 7 = false := by decide +kernel

theorem witness_SendResponseOnePacket :
    directionOf (latched (qLatched 0x80 6 64) 0) = .deviceToHost ∧ OnePacket 0 (List.replicate 70 1) (qLatched 0x80 6 64) ∧
    OnePacket 0 [1] (qLatched 0x80 6 0) := by
  unfold OnePacket
  decide +kernel

theorem witness_EngineReceivePacket :
    let s := q (fun h => { h with outFifo := [7] }) (fun u => { u with x := ⟨0x21, 9, 0, 0, 0, 0, 1, 0⟩, cp := .dataOut })
    let full := q (fun h => { h with outFifo := List.replicate 64 7 })
      (fun u => { u with x := ⟨0x21, 9, 0, 0, 0, 0, 65, 0⟩, cp := .dataOut })
    DataStageEnds 0 s ∧ ¬DataStageEnds 0 full ∧ (swOf s 0).cp = .dataOut ∧ (swOf q0 0).cp = .idle ∧
    (swOf (q id (fun u => { u with cp := .statusOut })) 0).cp = .statusOut ∧ typeOf (latched s 0) = .classType ∧
    typeOf (latched q0 0) = .standard := by
  unfold DataStageEnds
  decide +kernel

theorem witness_EngineSendComplete :
    let s := q id (fun u => { u with cp := .statusIn, deferredAddress := some 127, pendingTxAck := true })
    (swOf s 0).cp = .statusIn ∧ (swOf s 0).deferredAddress = some 127 ∧ (swOf s 0).pendingTxAck = true ∧
    (swOf q0 0).deferredAddress = none ∧ (swOf q0 0).pendingTxAck = false ∧ (swOf q0 0).cp ≠ .statusIn := by decide +kernel

theorem witness_RunHook :
    let s := qHook ⟨0xC0, 1, 0, 0, 0, 0, 4, 0⟩
    let z := qHook ⟨0x40, 2, 0, 0, 0, 0, 0, 0⟩
    hookOf q0.cfg.hooks .stringHook = none ∧ hookOf s.cfg.hooks .vendorHook = some hook ∧
    hookResult hook ⟨0, latched s 0, 1, []⟩ = .respond [5, 6] ∧ directionOf (latched s 0) = .deviceToHost ∧ OnePacket 0 [5, 6] s ∧
    hookResult hook ⟨0, latched z 0, 2, []⟩ = .consumed [.writeZlp 0] ∧ directionOf (latched z 0) = .hostToDevice ∧
    hookResult ⟨[], .reject⟩ ⟨0, latched s 0, 1, []⟩ = .reject ∧
    hookResult ⟨[], .consumed [.outPrime 0, .stallIn 3]⟩ ⟨0, latched s 0, 1, []⟩ = .consumed [.outPrime 0, .stallIn 3] ∧
    [PortOp.outPrime 0, .stallIn 3].all isOneStep = true ∧ turnLength s = 1048575 + 1 ∧
    hookResult ⟨[], .respond [1]⟩ ⟨0, latched z 0, 2, []⟩ = .respond [1] := by
  unfold OnePacket
  decide +kernel

theorem witness_ReadDrainsFifo :
    2 * (fifoOf (hwOf (q (fun h => { h with outFifo := [1, 2] }) id) 0) .out).length + 2 ≤ 6 ∧
    2 * (hwOf q0 0).epcFifo.length + 2 ≤ turnLength q0 := by decide +kernel

theorem witness_WriteOnePacket : ([] : List Byte).length ≤ 1 ∧ [1#8, 2#8].length ≤ 2 ∧ 2 + 4 ≤ turnLength q0 := by decide +kernel

theorem witness_WritePacketsReachHost :
    q0.main = [] ∧ (hwOf q0 0).connect = true ∧ (0 : DevAddr) = (hwOf q0 0).epcAddress ∧ stallBit (hwOf q0 0) .inp 1 = false ∧
    (hwOf q0 0).inFifo = [] ∧ 512 ≤ q0.cfg.inFifoDepth ∧ 512 + 10 ≤ turnLength q0 ∧ q0.cfg.writeWaitBudget = none := by
  decide +kernel

theorem witness_WriteWaitsForHost :
    1 < [1#8, 2#8].length ∧ ({ q0 with cfg := { q0.cfg with writeWaitBudget := some (0 + 1) } } : State).cfg.writeWaitBudget
      = some (0 + 1) ∧ q0.cfg.writeWaitBudget = none := by decide +kernel

/-- A machine whose endpoint 0 has packets of 8 bytes, with a budget or without one, and a request for 16 bytes latched. -/
def qSmall (budget : Option Nat) : State :=
  { qLatched 0x80 6 16 with cfg := { q0.cfg with ep0Mps := ⟨8, 8, 8, 512⟩, writeWaitBudget := budget } }

theorem witness_SendResponseManyPackets :
    let s := qSmall (some (0 + 1))
    let reply : List Byte := [1, 2, 3, 4, 5, 6, 7, 8, 9]
    Ready 0 s ∧ s.main = [] ∧ (hwOf s 0).inFifo = [] ∧ directionOf (latched s 0) = .deviceToHost ∧
    reply = reply.take (latched s 0).length.toNat ∧ 8 = mpsOf s.cfg (swOf s 0).speed ∧ 8 ≤ s.cfg.inFifoDepth ∧
    8 < reply.length ∧ 8 + 14 ≤ turnLength s ∧ (hwOf s 0).connect = true ∧ (0 : DevAddr) = (hwOf s 0).epcAddress ∧
    stallBit (hwOf s 0) .inp 0 = false ∧ 2 = (reply.length + 8 - 1) / 8 ∧ (qSmall none).cfg.writeWaitBudget = none := by
  unfold Ready
  decide +kernel

theorem witness_RejectedRequests :
    typeOf ⟨0x60, 0, 0, 0, 0⟩ = .reserved ∧ typeOf ⟨0x20, 0, 0, 0, 0⟩ = .classType ∧ typeOf ⟨0x40, 0, 0, 0, 0⟩ = .vendor ∧
    typeOf ⟨0x80, 13, 0, 0, 0⟩ = .standard ∧ q0.cfg.hooks.classHook = none ∧ q0.cfg.hooks.vendorHook = none := by decide +kernel

theorem witness_HookedRequests :
    let s := qHook ⟨0, 0, 0, 0, 0, 0, 0, 0⟩
    hookOf s.cfg.hooks .classHook = some hook ∧ hookOf s.cfg.hooks .vendorHook = some hook ∧
    typeOf ⟨0x21, 9, 0, 0, 1⟩ = .classType ∧ typeOf ⟨0xC0, 1, 0, 0, 4⟩ = .vendor ∧
    directionOf ⟨0x21, 9, 0, 0, 1⟩ = .hostToDevice ∧ (1#16 ≠ 0) ∧ directionOf ⟨0xC0, 1, 0, 0, 4⟩ = .deviceToHost ∧
    hookResult hook ⟨0, ⟨0xC0, 1, 0, 0, 4⟩, 1, []⟩ = .respond [5, 6] ∧ OnePacket 0 [5, 6] (served 0 ⟨0xC0, 1, 0, 0, 4⟩ s) ∧
    Undisturbed 0 s (2 + 20) ∧ turnLength s = 1048574 + 2 := by
  unfold OnePacket Undisturbed Ready
  decide +kernel

theorem witness_GetStatusRequest :
    OnePacket 0 [0, 0] (served 0 ⟨0x82, 0, 0, 0x81, 2⟩ q0) ∧ recipientOf ⟨0x80, 0, 0, 0, 2⟩ = .device ∧
    recipientOf ⟨0x81, 0, 0, 0, 2⟩ = .interface ∧ recipientOf ⟨0x82, 0, 0, 0, 2⟩ = .endpoint ∧
    recipientOf ⟨0x83, 0, 0, 0, 2⟩ ∉ [Recipient.device, .interface, .endpoint] ∧
    directionOf ⟨0x02, 0, 0, 0, 2⟩ = .hostToDevice := by
  unfold OnePacket
  decide +kernel

theorem witness_FeatureRequests :
    ((Dir.inp, (15#4 : EpNo)) = epAddrSplit (lo8 0x008F)) ∧ recipientOf ⟨0x02, 1, 0, 0x8F, 0⟩ = .endpoint ∧
    directionOf ⟨0x02, 1, 0, 0x8F, 0⟩ = .hostToDevice ∧ recipientOf ⟨0x00, 1, 1, 0, 0⟩ = .device ∧
    directionOf ⟨0x80, 1, 1, 0, 0⟩ = .deviceToHost ∧ recipientOf ⟨0x01, 1, 0, 0, 0⟩ = .interface := by decide +kernel

theorem witness_SetAddressRequest :
    directionOf ⟨0x00, 5, 127, 0, 0⟩ = .hostToDevice ∧ recipientOf ⟨0x00, 5, 127, 0, 0⟩ = .device ∧ (127#16).toNat ≤ 127 ∧
    127 < (128#16).toNat := by decide

theorem witness_GetDescriptorRequest :
    let pk : SetupPacket := ⟨0x80, 6, 0x0100, 0, 18⟩
    directionOf pk = .deviceToHost ∧ recipientOf pk = .device ∧ pk.value.toNat / 256 = 1 ∧ q0.cfg.tables.device = tablesT0.device ∧
    OnePacket 0 tablesT0.device (served 0 pk q0) ∧ Undisturbed 0 q0 ((tablesT0.device.take pk.length.toNat).length + 20) ∧
    (configBlob q0.cfg.tables (swOf q0 0).speed 1 = none ∧ (0x0201#16).toNat / 256 = 2) ∧
    (stringBlob q0.cfg.tables 1 = none ∧ (0x0301#16).toNat / 256 = 3 ∧ q0.cfg.hooks.stringHook = none) ∧
    (q0.cfg.tables.qualifier = none ∧ (0x0600#16).toNat / 256 = 6) ∧ (0x0700#16).toNat / 256 ∉ [1, 2, 3, 6] := by
  unfold OnePacket Undisturbed Ready
  decide +kernel

/-- The replies from the string table and from the string hook. -/
theorem witness_GetDescriptorString :
    stringBlob q0.cfg.tables (lo8 0x0300) = some [0x04, 0x03, 0x09, 0x04] ∧
    stringBlob (qHook ⟨0, 0, 0, 0, 0, 0, 0, 0⟩).cfg.tables (lo8 0x0301) = none ∧
    hookResult ⟨[], .respond [6, 3]⟩ ⟨0, ⟨0x80, 6, 0x0301, 0, 255⟩, 1, []⟩ = .respond [6, 3] := by decide +kernel

theorem witness_ConfigurationAndInterfaceRequests :
    OnePacket 0 [0] (served 0 ⟨0x80, 8, 0, 0, 1⟩ q0) ∧ (1#8).toNat = (0xFF01#16).toNat % 256 ∧
    configValid q0.cfg.tables (swOf q0 0).speed 1 = true ∧ configValid q0.cfg.tables (swOf q0 0).speed 2 = false ∧
    recipientOf ⟨0x81, 10, 0, 0, 1⟩ = .interface ∧ (swOf q0 0).configValue = 0 ∧
    (swOf (q id (fun u => { u with configValue := 1 })) 0).configValue ≠ 0 := by
  unfold OnePacket
  decide +kernel

end Sys2Proof.Tests
end

section
/-! SUPPORT. How an instruction is performed, said once for all rows (`exec_performs`), and what it can answer: the way of
performing it fixes whether it faults, and a predicate that every step of an agent and every move of the host keeps is
kept by every instruction (`exec_keeps`). -/

namespace Sys2Proof.Machine

/-! ## What each way of performing answers -/

theorem onPort_next {p : Port} {f : State → Answer} {s t : State} (h : onPort p f s = .next t) :
    portExists p s = true ∧ f s = .next t := by
  unfold onPort at h
  split at h
  · next hp => exact ⟨hp, h⟩
  · cases h

theorem mainAtomic_next {r : State → Ret} {f : State → State} {s t : State} (h : mainAtomic r f s = .next t) :
    t = setRet .disabled s ∨ t = setRet (r s) (f s) := by
  unfold mainAtomic notEnabled at h
  split at h <;> cases h
  · exact .inr rfl
  · exact .inl rfl

theorem irqAtomic_next {f : State → State} {s t : State} (h : irqAtomic f s = .next t) :
    t = setRet .disabled s ∨ t = setRet .nothing (f s) := by
  unfold irqAtomic notEnabled at h
  split at h <;> cases h
  · exact .inl rfl
  · exact .inr rfl

theorem busMove_next {guard : State → Bool} {f : State → State} {s t : State} (h : busMove guard f s = .next t) :
    t = setRet .disabled s ∨ t = setRet .nothing (f s) := by
  unfold busMove notEnabled at h
  split at h <;> cases h
  · exact .inr rfl
  · exact .inl rfl

theorem startMain_next {ts : List Task} {s t : State} (h : startMain ts s = .next t) :
    t = setRet .disabled s ∨
      t = { (runTasks (turnLength s) ts (setRet .nothing s)).2 with
        main := (runTasks (turnLength s) ts (setRet .nothing s)).1 ++ s.main } := by
  unfold startMain notEnabled at h
  split at h <;> cases h
  · exact .inr rfl
  · exact .inl rfl

theorem startIrq_next {ts : List Task} {s t : State} (h : startIrq ts s = .next t) :
    t = setRet .disabled s ∨
      t = { (runTasks (turnLength s) ts (setRet .nothing s)).2 with
        irq := (runTasks (turnLength s) ts (setRet .nothing s)).1 ++ s.irq } := by
  unfold startIrq notEnabled at h
  split at h <;> cases h
  · exact .inl rfl
  · exact .inr rfl

/-- Where a turn of the main agent starts. -/
def mainStart (s : State) : State := setRet .nothing { s with main := [] }

theorem mainTurn_next {s t : State} (h : mainTurn s = .next t) :
    t = setRet .disabled s ∨
      t = { (runTasks (turnLength s) (mainWork s) (mainStart s)).2 with
        main := (runTasks (turnLength s) (mainWork s) (mainStart s)).1 } := by
  unfold mainTurn notEnabled at h
  split at h <;> cases h
  · exact .inr rfl
  · exact .inl rfl

/-- Where the dispatcher goes on. -/
def irqStart (s : State) : State := setRet .nothing { s with irq := [] }

theorem continueIrq_next {s t : State} (h : continueIrq s = .next t) :
    t = { (runTasks (turnLength s) s.irq (irqStart s)).2 with irq := (runTasks (turnLength s) s.irq (irqStart s)).1 } := by
  cases h
  rfl

/-- A turn of the interrupt agent goes on from the state as it is, or from its entry. -/
theorem irqTurn_next {s t : State} (h : irqTurn s = .next t) :
    t = setRet .disabled s ∨ ∃ u, (u = s ∨ u = enterInterrupt s) ∧ continueIrq u = .next t := by
  unfold irqTurn notEnabled at h
  split at h
  · cases h; exact .inl rfl
  · split at h
    · split at h
      · exact .inr ⟨_, .inr rfl, h⟩
      · cases h; exact .inl rfl
    · exact .inr ⟨_, .inl rfl, h⟩

/-! ## The ways of performing an instruction -/

/-- What a host move on a port does under its guard (42_register_ops.md R158 to R162). -/
inductive HostMove (p : Port) : (State → State) → Prop where
  | busReset (sp : Speed) : HostMove p (hostBusResetMove p sp)
  | setup (e : EpNo) (bytes : List Byte) : HostMove p (hostSetupMove p e bytes)
  | outPacket (e : EpNo) (bytes : List Byte) : HostMove p (hostOutMove p e bytes)
  | inTake (e : EpNo) : HostMove p (hostInMove p e)
  | seesStall (d : Dir) (e : EpNo) : HostMove p (observe (.hostStall p d e))

/-- `Performs port agent f`: `f` is a meaning of an instruction that names `port` and is a step of `agent`. -/
inductive Performs : Option Port → Agent → (State → Answer) → Prop where
  | value (r : Ret) : Performs none .nobody (evalOp r)
  | operation (p : Port) (o : PortOp) (r : State → Ret) :
      Performs (some p) .main (onPort p (mainAtomic r fun s => (callStep p o s).state))
  | connect (p : Port) (sp : Speed) :
      Performs (some p) .main (onPort p (mainAtomic (fun _ => .code (speedCode sp)) (opConnect p sp)))
  | turn {p : Port} {ts : List Task} (h : OnPort p ts) : Performs (some p) .main (onPort p (startMain ts))
  | pop : Performs none .main (mainAtomic (fun s => .event (evqHead s)) opEvqPop)
  | mainStep : Performs none .main mainTurn
  | handler (p : Port) (src : Source) : Performs (some p) .interrupt (onPort p (startIrq [.irqHandler p src]))
  | unknown (extra : Nat) : Performs none .interrupt (startIrq [.irqUnknown extra])
  | entry : Performs none .interrupt irqTurn
  | pushOn {p : Port} {ev : Event} (h : eventPort ev = some p) :
      Performs (some p) .interrupt (onPort p (irqAtomic (opEvqPush ev)))
  | push {ev : Event} (h : eventPort ev = none) : Performs none .interrupt (irqAtomic (opEvqPush ev))
  | host {p : Port} {f : State → State} (guard : State → Bool) (h : HostMove p f) :
      Performs (some p) .bus (onPort p (busMove guard f))
  | spurious (extra : Nat) :
      Performs none .bus (busMove (fun _ => true) fun s => { s with spurious := some extra })

theorem execEvqPush_performs (ev : Event) : Performs (eventPort ev) .interrupt (execEvqPush ev) := by
  unfold execEvqPush
  cases h : eventPort ev with
  | none => exact .push h
  | some p => exact .pushOn h

/-- Every instruction is performed in one of these ways, on the port it names and by its agent. -/
theorem exec_performs (i : Instr) : Performs (portOf i) (agentOf i) (exec i) := by
  cases i
  case enableInterrupt p src => exact .operation p (.enableInterrupt src) _
  case disableInterrupt p src => exact .operation p (.disableInterrupt src) _
  case clearPending p src => exact .operation p (.clearPending src) _
  case isPending p src => exact .operation p (.isPending src) _
  case connect p sp => exact .connect p sp
  case ctlSpeed p => exact .operation p .ctlSpeed _
  case resetFifo p g => exact .operation p (.resetFifo g) _
  case setAddress p a => exact .operation p (.setAddress a) _
  case stallIn p e => exact .operation p (.stallIn e) _
  case stallOut p e => exact .operation p (.stallOut e) _
  case unstallIn p e => exact .operation p (.unstallIn e) _
  case unstallOut p e => exact .operation p (.unstallOut e) _
  case clearHalt p ea => exact .operation p (.clearHalt ea) _
  case outHasData p => exact .operation p .outHasData _
  case outPopByte p => exact .operation p .outPopByte _
  case ctrlHasData p => exact .operation p .ctrlHasData _
  case ctrlPopByte p => exact .operation p .ctrlPopByte _
  case ctrlEpno p => exact .operation p .ctrlEpno _
  case outEpno p => exact .operation p .outEpno _
  case outPrime p e => exact .operation p (.outPrime e) _
  case inPushByte p b => exact .operation p (.inPushByte b) _
  case inCommit p e => exact .operation p (.inCommit e) _
  case inIsIdle p => exact .operation p .inIsIdle _
  case inHasData p => exact .operation p .inHasData _
  case isStalled p d e => exact .operation p (.isStalled d e) _
  case inEpno p => exact .operation p .inEpno _
  case hostBusReset p sp => exact .host _ (.busReset sp)
  case hostSetup p a e bytes => exact .host _ (.setup e bytes)
  case hostOutPacket p a e bytes => exact .host _ (.outPacket e bytes)
  case hostInTake p a e => exact .host _ (.inTake e)
  case hostSeesStall p a d e => exact .host _ (.seesStall d e)
  case spuriousIrq extra => exact .spurious extra
  case irqEntry => exact .entry
  case irqBusReset p => exact .handler p .ctl
  case irqReceiveControl p => exact .handler p .epc
  case irqReceivePacket p => exact .handler p .out
  case irqSendComplete p => exact .handler p .inp
  case irqUnknown extra => exact .unknown extra
  case evqPush ev => exact execEvqPush_performs ev
  case evqPop => exact .pop
  case mainStep => exact .mainStep
  case disconnect | cteBusReset | cteReceiveControl | cteDispatch | ackStatusStage | stallControlRequest | sendResponse
    | dataOutBegin | cteReceivePacket | cteSendComplete | cteDisconnect | runHook | read | write | writeZlp | readControl
    | reqGetStatus | reqClearFeature | reqReservedStd2 | reqSetFeature | reqReservedStd4 | reqSetAddress
    | reqGetDescriptor | reqSetDescriptor | reqGetConfiguration | reqSetConfiguration | reqGetInterface
    | reqSetInterface | reqSynchFrame | reqClassOrVendorStd13 | reqClassOrVendorStd14To15 | reqClassOrVendorStd16To31
    | reqClassOrVendorStd32To63 | reqClassOrVendorStd64To127 | reqClassOrVendorStd128To255 | reqClassOrVendorClass
    | reqClassOrVendorVendor | reqReservedType3 | reqGetDescriptorDevice | reqGetDescriptorConfiguration
    | reqGetDescriptorString | reqGetDescriptorDeviceQualifier | reqClearFeatureEndpointHalt
    | reqClearFeatureDeviceRemoteWakeup | reqSetFeatureEndpointHalt | reqSetFeatureDeviceRemoteWakeup =>
    exact .turn (by simp [taskPort, disconnectTasks])
  all_goals exact .value _

/-- An instruction that names a port the machine does not have stops it (log 34). -/
theorem Performs.absent {p : Port} {ag : Agent} {f : State → Answer} (h : Performs (some p) ag f) {s : State}
    (hp : portExists p s = false) : f s = .fault (.noSuchPort p) := by
  cases h <;> exact onPort_absent hp

theorem mainAtomic_answers (r : State → Ret) (f : State → State) (s : State) : ∃ t, mainAtomic r f s = .next t := by
  unfold mainAtomic notEnabled
  split <;> exact ⟨_, rfl⟩

theorem irqAtomic_answers (f : State → State) (s : State) : ∃ t, irqAtomic f s = .next t := by
  unfold irqAtomic notEnabled
  split <;> exact ⟨_, rfl⟩

theorem startMain_answers (ts : List Task) (s : State) : ∃ t, startMain ts s = .next t := by
  unfold startMain notEnabled
  split <;> exact ⟨_, rfl⟩

theorem startIrq_answers (ts : List Task) (s : State) : ∃ t, startIrq ts s = .next t := by
  unfold startIrq notEnabled
  split <;> exact ⟨_, rfl⟩

theorem mainTurn_answers (s : State) : ∃ t, mainTurn s = .next t := by
  unfold mainTurn notEnabled
  split <;> exact ⟨_, rfl⟩

theorem irqTurn_answers (s : State) : ∃ t, irqTurn s = .next t := by
  unfold irqTurn continueIrq notEnabled
  repeat' split
  all_goals exact ⟨_, rfl⟩

theorem busMove_answers (guard : State → Bool) (f : State → State) (s : State) : ∃ t, busMove guard f s = .next t := by
  unfold busMove notEnabled
  split <;> exact ⟨_, rfl⟩

/-- Nothing else stops it: an instruction whose port is there answers a next state. -/
theorem Performs.answers {op : Option Port} {ag : Agent} {f : State → Answer} (h : Performs op ag f) {s : State}
    (hp : PortPresent op s) : ∃ t, f s = .next t := by
  cases h
  case value r => exact ⟨_, rfl⟩
  case operation p o r => rw [onPort_exists (hp p rfl)]; exact mainAtomic_answers ..
  case connect p sp => rw [onPort_exists (hp p rfl)]; exact mainAtomic_answers ..
  case turn p ts _ => rw [onPort_exists (hp p rfl)]; exact startMain_answers ..
  case pop => exact mainAtomic_answers ..
  case mainStep => exact mainTurn_answers s
  case handler p src => rw [onPort_exists (hp p rfl)]; exact startIrq_answers ..
  case unknown extra => exact startIrq_answers ..
  case entry => exact irqTurn_answers s
  case pushOn p ev _ => rw [onPort_exists (hp p rfl)]; exact irqAtomic_answers ..
  case push ev _ => exact irqAtomic_answers ..
  case host p g guard _ => rw [onPort_exists (hp p rfl)]; exact busMove_answers ..
  case spurious extra => exact busMove_answers ..

/-! ## What every instruction keeps -/

/-- A predicate that every step of an agent and every move of the host keeps, and that does not look at the model's own
fields `main`, `irq`, `spurious` and `ret`. -/
structure StepClosed (P : State → Prop) : Prop where
  task : ∀ (u : Task) (s : State), P s → P (taskStep u s).state
  connect : ∀ (p : Port) (sp : Speed) (s : State), P s → P (opConnect p sp s)
  host : ∀ {p : Port} {f : State → State}, HostMove p f → ∀ s, P s → P (f s)
  own : ∀ (s : State) (main irq : List Task) (spurious : Option Nat) (ret : Ret), P s →
    P { s with main := main, irq := irq, spurious := spurious, ret := ret }

namespace StepClosed

variable {P : State → Prop}

theorem ret (hP : StepClosed P) {s : State} (r : Ret) (h : P s) : P (setRet r s) := hP.own s s.main s.irq s.spurious r h

theorem main (hP : StepClosed P) {s : State} (ts : List Task) (h : P s) : P { s with main := ts } :=
  hP.own s ts s.irq s.spurious s.ret h

theorem irq (hP : StepClosed P) {s : State} (ts : List Task) (h : P s) : P { s with irq := ts } :=
  hP.own s s.main ts s.spurious s.ret h

theorem spurious (hP : StepClosed P) {s : State} (x : Option Nat) (h : P s) : P { s with spurious := x } :=
  hP.own s s.main s.irq x s.ret h

theorem run (hP : StepClosed P) (n : Nat) (ts : List Task) {s : State} (h : P s) : P (runTasks n ts s).2 :=
  runTasks_keeps hP.task n ts s h

theorem enterInterrupt (hP : StepClosed P) {s : State} (h : P s) : P (enterInterrupt s) := hP.own s s.main _ none s.ret h

theorem continueIrq (hP : StepClosed P) {s t : State} (h : P s) (ht : continueIrq s = .next t) : P t := by
  cases continueIrq_next ht
  exact hP.irq _ (hP.run _ _ (hP.ret _ (hP.irq _ h)))

theorem mainAtomic (hP : StepClosed P) {r : State → Ret} {f : State → State} {s t : State} (hf : P s → P (f s)) (h : P s)
    (ht : mainAtomic r f s = .next t) : P t := by
  rcases mainAtomic_next ht with rfl | rfl
  · exact hP.ret _ h
  · exact hP.ret _ (hf h)

theorem irqAtomic (hP : StepClosed P) {f : State → State} {s t : State} (hf : P s → P (f s)) (h : P s)
    (ht : irqAtomic f s = .next t) : P t := by
  rcases irqAtomic_next ht with rfl | rfl
  · exact hP.ret _ h
  · exact hP.ret _ (hf h)

theorem busMove (hP : StepClosed P) {guard : State → Bool} {f : State → State} {s t : State} (hf : P s → P (f s)) (h : P s)
    (ht : busMove guard f s = .next t) : P t := by
  rcases busMove_next ht with rfl | rfl
  · exact hP.ret _ h
  · exact hP.ret _ (hf h)

theorem startMain (hP : StepClosed P) {ts : List Task} {s t : State} (h : P s) (ht : startMain ts s = .next t) : P t := by
  rcases startMain_next ht with rfl | rfl
  · exact hP.ret _ h
  · exact hP.main _ (hP.run _ _ (hP.ret _ h))

theorem startIrq (hP : StepClosed P) {ts : List Task} {s t : State} (h : P s) (ht : startIrq ts s = .next t) : P t := by
  rcases startIrq_next ht with rfl | rfl
  · exact hP.ret _ h
  · exact hP.irq _ (hP.run _ _ (hP.ret _ h))

theorem mainTurn (hP : StepClosed P) {s t : State} (h : P s) (ht : mainTurn s = .next t) : P t := by
  rcases mainTurn_next ht with rfl | rfl
  · exact hP.ret _ h
  · exact hP.main _ (hP.run _ _ (hP.ret _ (hP.main _ h)))

theorem irqTurn (hP : StepClosed P) {s t : State} (h : P s) (ht : irqTurn s = .next t) : P t := by
  rcases irqTurn_next ht with rfl | ⟨u, rfl | rfl, hu⟩
  · exact hP.ret _ h
  · exact hP.continueIrq h hu
  · exact hP.continueIrq (hP.enterInterrupt h) hu

/-- Such a predicate is kept by every instruction. -/
theorem performs (hP : StepClosed P) {op : Option Port} {ag : Agent} {f : State → Answer} (hf : Performs op ag f)
    {s t : State} (h : P s) (ht : f s = .next t) : P t := by
  cases hf
  case value r => cases ht; exact hP.ret _ h
  case operation p o r => exact hP.mainAtomic (hP.task (.call p o) s) h (onPort_next ht).2
  case connect p sp => exact hP.mainAtomic (hP.connect p sp s) h (onPort_next ht).2
  case turn p ts _ => exact hP.startMain h (onPort_next ht).2
  case pop => exact hP.mainAtomic (hP.task .mainPop s) h ht
  case mainStep => exact hP.mainTurn h ht
  case handler p src => exact hP.startIrq h (onPort_next ht).2
  case unknown extra => exact hP.startIrq h ht
  case entry => exact hP.irqTurn h ht
  case pushOn p ev _ => exact hP.irqAtomic (hP.task (.evqPush ev) s) h (onPort_next ht).2
  case push ev _ => exact hP.irqAtomic (hP.task (.evqPush ev) s) h ht
  case host p g guard hm => exact hP.busMove (hP.host hm s) h (onPort_next ht).2
  case spurious extra => exact hP.busMove (hP.spurious _) h ht

end StepClosed

/-- What every instruction keeps: a predicate that is `StepClosed`. -/
theorem exec_keeps {P : State → Prop} (hP : StepClosed P) {i : Instr} {s t : State} (h : P s) (ht : exec i s = .next t) :
    P t := hP.performs (exec_performs i) h ht

end Sys2Proof.Machine
end

section
/-! PROOFS. O14 and O21: what every instruction keeps (10_state.md R29, R37, R39, R40, R41). -/

namespace Sys2Proof.Machine

/-! ## R41 (a) to (c) -/

theorem inv_hostMove {p : Port} {f : State → State} (hf : HostMove p f) {s : State} (h : Inv s) : Inv (f s) := by
  cases hf with
  | busReset sp => exact inv_hostBusResetMove h
  | setup e bytes => exact inv_hostSetupMove h
  | outPacket e bytes => exact inv_hostOutMove h
  | inTake e => exact inv_hostInMove h
  | seesStall d e => exact inv_observe h

theorem inv_stepClosed : StepClosed Inv where
  task := taskStep_inv
  connect _ _ _ h := inv_opConnect h
  host hf _ h := inv_hostMove hf h
  own _ _ _ _ _ h := inv_congr h rfl rfl rfl rfl

/-- A step answers a next state only by performing an instruction, on the state itself or with one stimulus taken. -/
theorem step_next {s t : State} (h : step s = .next t) : ∃ i rest, exec i { s with stream := rest } = .next t := by
  unfold step at h
  split at h
  · exact ⟨idleInstr s, s.stream, h⟩
  · next u rest _ =>
    split at h
    · next i _ _ => exact ⟨i, rest, h⟩
    · cases h

/-- Settles O14: Inv is kept by every step of an agent and every move of the host, hence by every instruction. -/
theorem invKeptByStep : Obligations.InvKeptByStep := by
  intro s t hs ht
  obtain ⟨i, rest, hi⟩ := step_next ht
  have hs' : Inv { s with stream := rest } := inv_congr hs rfl rfl rfl rfl
  exact exec_keeps inv_stepClosed hs' hi

/-! ## The parameters, the trace, the fatal latch and the counters -/

/-- No counter of a port falls (10_state.md R29). -/
structure CountersGrow (u w : SwPort) : Prop where
  setupDropped : u.ctrSetupDropped ≤ w.ctrSetupDropped
  readOverflow : u.ctrReadOverflow ≤ w.ctrReadOverflow
  writeReset : u.ctrWriteReset ≤ w.ctrWriteReset
  writeOverflow : u.ctrWriteOverflow ≤ w.ctrWriteOverflow
  unexpected : u.ctrUnexpected ≤ w.ctrUnexpected
  waitExpired : u.ctrWaitExpired ≤ w.ctrWaitExpired

theorem CountersGrow.refl (u : SwPort) : CountersGrow u u := by
  constructor <;> exact Nat.le_refl _

theorem CountersGrow.trans {u w x : SwPort} (h : CountersGrow u w) (h' : CountersGrow w x) : CountersGrow u x where
  setupDropped := h.setupDropped.trans h'.setupDropped
  readOverflow := h.readOverflow.trans h'.readOverflow
  writeReset := h.writeReset.trans h'.writeReset
  writeOverflow := h.writeOverflow.trans h'.writeOverflow
  unexpected := h.unexpected.trans h'.unexpected
  waitExpired := h.waitExpired.trans h'.waitExpired

/-- From `s` to `t` the parameters stay, the trace grows, a set latch stays set and no counter falls. -/
structure Grows (s t : State) : Prop where
  cfg : t.cfg = s.cfg
  obs : s.g.obs <+: t.g.obs
  fatal : s.g.fatal = true → t.g.fatal = true
  unknownIrq : s.g.ctrUnknownIrq ≤ t.g.ctrUnknownIrq
  error : s.g.ctrError ≤ t.g.ctrError
  counters : ∀ p, CountersGrow (swOf s p) (swOf t p)

namespace Grows

theorem refl (s : State) : Grows s s := ⟨rfl, List.prefix_refl _, id, Nat.le_refl _, Nat.le_refl _, fun _ => .refl _⟩

theorem trans {s t u : State} (h : Grows s t) (h' : Grows t u) : Grows s u where
  cfg := h'.cfg.trans h.cfg
  obs := h.obs.trans h'.obs
  fatal hf := h'.fatal (h.fatal hf)
  unknownIrq := h.unknownIrq.trans h'.unknownIrq
  error := h.error.trans h'.error
  counters p := (h.counters p).trans (h'.counters p)

/-- What touches one port only grows if that port's counters do not fall. -/
theorem ofTouches {p : Port} {s t : State} (h : Touches p s t) (hp : CountersGrow (swOf s p) (swOf t p)) : Grows s t where
  cfg := h.cfg
  obs := h.obs
  fatal hf := h.fatal.trans hf
  unknownIrq := h.unknownIrq.ge
  error := h.error.ge
  counters q := by
    by_cases hq : q = p
    · subst hq; exact hp
    · rw [h.sw q hq]; exact .refl _

end Grows

theorem countersGrow_updSw {p : Port} {f : SwPort → SwPort} {s : State} (h : ∀ u, CountersGrow u (f u)) :
    CountersGrow (swOf s p) (swOf (updSw p f s) p) := by
  rw [swOf_updSw]
  split
  · exact h _
  · exact .refl _

theorem countersGrow_swWrite (p : Port) (w : SwWrite) (s : State) :
    CountersGrow (swOf s p) (swOf (swWrite p w s) p) :=
  countersGrow_updSw fun u => by cases w <;> exact ⟨le_rfl, le_rfl, le_rfl, le_rfl, le_rfl, le_rfl⟩

theorem countersGrow_logPort (p : Port) (k : PortLogged) (s : State) :
    CountersGrow (swOf s p) (swOf (logPort p k s) p) :=
  countersGrow_updSw fun u => by cases k <;> constructor <;> simp

theorem countersGrow_logReadOverflow (p : Port) (n : Nat) (s : State) :
    CountersGrow (swOf s p) (swOf (logReadOverflow p n s) p) :=
  countersGrow_updSw fun u => by constructor <;> simp

theorem countersGrow_opInPushByte (p : Port) (b : Byte) (s : State) :
    CountersGrow (swOf s p) (swOf (opInPushByte p b s) p) := by
  unfold opInPushByte
  split
  · exact .refl _
  · exact countersGrow_updSw fun u => by constructor <;> simp

@[simp] theorem swOf_drawIfEmpty (fifo : List Byte) (s : State) (q : Port) : swOf (drawIfEmpty fifo s) q = swOf s q := by
  unfold drawIfEmpty
  split <;> rfl

@[simp] theorem swOf_popByte (p q : Port) (f : ReadFifo) (s : State) : swOf (popByte p f s) q = swOf s q := by
  cases f <;> simp [popByte, opOutPopByte, opCtrlPopByte]

@[simp] theorem swOf_readResult (buf : List Byte) (ovf : Nat) (r : ReadRet) (s : State) (q : Port) :
    swOf (readResult buf ovf r s) q = swOf s q := by
  cases r <;> rfl

@[simp] theorem swOf_writeResult (v : Ret) (r : WriteRet) (s : State) (q : Port) :
    swOf (writeResult v r s) q = swOf s q := by
  cases r <;> rfl

theorem countersGrow_callStep (p : Port) (o : PortOp) (s : State) :
    CountersGrow (swOf s p) (swOf (callStep p o s).state p) := by
  cases o
  case inPushByte b => exact countersGrow_opInPushByte p b s
  case outPopByte => exact (swOf_popByte p p .out s) ▸ .refl _
  case ctrlPopByte => exact (swOf_popByte p p .ctrl s) ▸ .refl _
  all_goals exact .refl _

/-- A step of the main context on a port lets none of that port's counters fall. -/
theorem countersGrow_taskStep {p : Port} {u : Task} (s : State) (hu : taskPort u = some p) :
    CountersGrow (swOf s p) (swOf (taskStep u s).state p) := by
  cases u <;> simp only [taskPort, Option.some.injEq, reduceCtorEq] at hu <;> subst hu
  case sw p w => exact countersGrow_swWrite p w s
  case call p o => exact countersGrow_callStep p o s
  case log p k => exact countersGrow_logPort p k s
  case readQuery =>
    simp only [taskStep, readQueryStep]
    split <;> exact .refl _
  case readPop =>
    simp only [taskStep, readPopStep]
    split <;> simp only [goOn, swOf_popByte] <;> exact .refl _
  case readReturn p buf ovf r =>
    simp only [taskStep, readReturnStep, goOn, swOf_readResult]
    split
    · exact countersGrow_logReadOverflow p ovf s
    · exact .refl _
  case writeStart =>
    simp only [taskStep, writeStartStep]
    split <;> exact .refl _
  case writePush p ep size b rest i r =>
    simp only [taskStep, writePushStep]
    split <;> exact countersGrow_opInPushByte p b s
  case writePoll =>
    simp only [taskStep, writePollStep]
    repeat' split
    all_goals exact .refl _
  case writeFinal => simp only [taskStep, goOn, swOf_writeResult]; exact .refl _
  case writeExpired => simp only [taskStep, goOn, swOf_writeResult]; exact .refl _
  case latch => exact countersGrow_updSw fun u => ⟨le_rfl, le_rfl, le_rfl, le_rfl, le_rfl, le_rfl⟩
  all_goals exact .refl _

theorem grows_opEvqPush (ev : Event) (s : State) : Grows s (opEvqPush ev s) := by
  unfold opEvqPush
  split
  · exact ⟨rfl, List.prefix_refl _, fun _ => rfl, le_rfl, le_rfl, fun _ => .refl _⟩
  · exact ⟨rfl, List.prefix_refl _, id, le_rfl, le_rfl, fun _ => .refl _⟩

theorem taskStep_grows (u : Task) (s : State) : Grows s (taskStep u s).state := by
  cases hu : taskPort u with
  | some p => exact .ofTouches (taskStep_touches s hu).1 (countersGrow_taskStep s hu)
  | none =>
    cases u <;> simp only [taskPort, reduceCtorEq] at hu
    case logUnknownInterrupt => exact ⟨rfl, List.prefix_refl _, id, Nat.le_succ _, le_rfl, fun _ => .refl _⟩
    case logErrorEvent => exact ⟨rfl, List.prefix_refl _, id, le_rfl, Nat.le_succ _, fun _ => .refl _⟩
    case mainPop => exact ⟨rfl, List.prefix_refl _, id, le_rfl, le_rfl, fun _ => .refl _⟩
    case evqPush ev => exact grows_opEvqPush ev s
    all_goals exact .refl s

/-- A host move touches its port only. -/
theorem touches_hostMove {p : Port} {f : State → State} (hf : HostMove p f) (s : State) : Touches p s (f s) := by
  cases hf with
  | busReset sp => exact touches_hostBusResetMove ..
  | setup e bytes => exact touches_hostSetupMove ..
  | outPacket e bytes => exact touches_hostOutMove ..
  | inTake e => exact touches_hostInMove ..
  | seesStall d e => exact .observe ..

/-- A host move writes nothing of SW. -/
theorem sw_hostMove {p : Port} {f : State → State} (hf : HostMove p f) (s : State) : (f s).sw = s.sw := by
  cases hf <;> rfl

theorem swOf_congr {s t : State} (h : t.sw = s.sw) (p : Port) : swOf t p = swOf s p := by
  simp [swOf, h]

theorem grows_hostMove {p : Port} {f : State → State} (hf : HostMove p f) (s : State) : Grows s (f s) :=
  .ofTouches (touches_hostMove hf s) (swOf_congr (sw_hostMove hf s) p ▸ .refl _)

theorem grows_stepClosed (s : State) : StepClosed (Grows s) where
  task u t h := h.trans (taskStep_grows u t)
  connect p sp t h := h.trans (.ofTouches (touches_opConnect p sp t) (.refl _))
  host hf t h := h.trans (grows_hostMove hf t)
  own _ _ _ _ _ h := h.trans ⟨rfl, List.prefix_refl _, id, le_rfl, le_rfl, fun _ => .refl _⟩

/-- Settles O21: `Grows` holds from any state on, step by step. -/
theorem parametersFixedTraceGrows : Obligations.ParametersFixedTraceGrows := by
  intro i s t ht
  have h := exec_keeps (grows_stepClosed s) (.refl s) ht
  refine ⟨h.cfg, h.obs, h.fatal, h.unknownIrq, h.error, fun p => ?_⟩
  have hc := h.counters p
  exact ⟨hc.setupDropped, hc.readOverflow, hc.writeReset, hc.writeOverflow, hc.unexpected, hc.waitExpired⟩

end Sys2Proof.Machine
end

section
/-! PROOFS. O20: an instruction touches the port it names, which must be there (10_state.md R20, 00_scope.md R12). -/

namespace Sys2Proof.Machine

/-- The registers of every port but `p` are as before. -/
def OthersKept (p : Port) (s t : State) : Prop := ∀ q, q ≠ p → hwOf t q = hwOf s q ∧ swOf t q = swOf s q

namespace OthersKept

variable {p : Port} {s t u : State}

theorem trans (h : OthersKept p s t) (h' : OthersKept p t u) : OthersKept p s u := fun q hq =>
  ⟨(h' q hq).1.trans (h q hq).1, (h' q hq).2.trans (h q hq).2⟩

theorem ofTouches (h : Touches p s t) : OthersKept p s t := fun q hq => ⟨h.hw q hq, h.sw q hq⟩

end OthersKept

/-- The work of the dispatcher when it serves port `p`, from the handler of a source on (43_dispatcher_queue.md R172 to R175). -/
def ServesPort (p : Port) : Task → Prop
  | .irqHandler q _ => q = p
  | .irqEpno q _ => q = p
  | .evqPush _ => True
  | u => taskPort u = some p

theorem servesPort_of_taskPort {p : Port} {u : Task} (h : taskPort u = some p) : ServesPort p u := by
  cases u <;> simp_all [ServesPort, taskPort]

theorem ServesPort.taskPort {p q : Port} {u : Task} (h : ServesPort p u) (hq : taskPort u = some q) : q = p := by
  cases u <;> simp_all [ServesPort, Machine.taskPort]

theorem servesPort_irqHandlerTasks (p : Port) (src : Source) : ∀ u ∈ irqHandlerTasks p src, ServesPort p u := by
  cases src <;> simp [irqHandlerTasks, ServesPort, taskPort]

theorem servesPort_irqEpnoTasks (p : Port) (s : State) (use : EpnoUse) : ∀ u ∈ irqEpnoTasks p s use, ServesPort p u := by
  cases use <;> simp [irqEpnoTasks, ServesPort, taskPort]

/-- Such a step leaves work of the same kind, and the other ports alone. -/
theorem taskStep_servesPort {p : Port} (u : Task) (s : State) (hu : ServesPort p u) :
    (∀ w ∈ (taskStep u s).next, ServesPort p w) ∧ OthersKept p s (taskStep u s).state := by
  cases hp : taskPort u with
  | some q =>
    obtain rfl := hu.taskPort hp
    obtain ⟨ht, hn⟩ := taskStep_touches s hp
    exact ⟨fun w hw => servesPort_of_taskPort (hn w hw), .ofTouches ht⟩
  | none =>
    cases u <;> simp only [ServesPort, taskPort, reduceCtorEq] at hu hp
    case irqHandler q src =>
      subst hu
      exact ⟨servesPort_irqHandlerTasks _ src, fun _ _ => ⟨rfl, rfl⟩⟩
    case irqEpno q use =>
      subst hu
      exact ⟨servesPort_irqEpnoTasks _ s use, fun _ _ => ⟨rfl, rfl⟩⟩
    case evqPush ev => exact ⟨by simp [taskStep], fun q _ => ⟨hwOf_opEvqPush ev s q, swOf_opEvqPush ev s q⟩⟩

/-- A turn of the dispatcher that serves a port leaves the other ports alone. -/
theorem runTasks_servesPort {p : Port} {ts : List Task} (n : Nat) (s : State) (h : ∀ u ∈ ts, ServesPort p u) :
    OthersKept p s (runTasks n ts s).2 :=
  (runTasks_induct (P := OthersKept p s) (Q := ServesPort p)
    (fun u t hu ht => ⟨(taskStep_servesPort u t hu).1, ht.trans (taskStep_servesPort u t hu).2⟩) n ts s h
    (.ofTouches (.refl p s))).2

theorem Performs.othersKept {p : Port} {ag : Agent} {f : State → Answer} (hf : Performs (some p) ag f) {s t : State}
    (h : f s = .next t) : OthersKept p s t := by
  have hret (r : Ret) : OthersKept p s (setRet r s) := .ofTouches (.setRet ..)
  cases hf
  case operation o r =>
    rcases mainAtomic_next (onPort_next h).2 with rfl | rfl
    · exact hret _
    · exact .ofTouches ((touches_callStep p o s).1.trans (.setRet ..))
  case connect sp =>
    rcases mainAtomic_next (onPort_next h).2 with rfl | rfl
    · exact hret _
    · exact .ofTouches ((touches_opConnect p sp s).trans (.setRet ..))
  case turn ts hts =>
    rcases startMain_next (onPort_next h).2 with rfl | rfl
    · exact hret _
    · have hrun : OthersKept p s (runTasks (turnLength s) ts (setRet .nothing s)).2 :=
        (hret .nothing).trans (.ofTouches (runTasks_touches _ _ hts).1)
      exact hrun
  case handler src =>
    rcases startIrq_next (onPort_next h).2 with rfl | rfl
    · exact hret _
    · exact runTasks_servesPort _ (setRet .nothing s) (by simp [ServesPort])
  case pushOn ev hev =>
    rcases irqAtomic_next (onPort_next h).2 with rfl | rfl
    · exact hret _
    · exact fun q _ => ⟨hwOf_opEvqPush ev s q, swOf_opEvqPush ev s q⟩
  case host g guard hm =>
    rcases busMove_next (onPort_next h).2 with rfl | rfl
    · exact hret _
    · exact .ofTouches ((touches_hostMove hm s).trans (.setRet ..))

/-- Settles O20, from the ways of performing an instruction: all that name a port test for it and then touch it only. -/
theorem otherPortsUntouched : Obligations.OtherPortsUntouched := by
  refine ⟨?_, ?_, ?_⟩
  · intro i s t p hp ht q hq
    have hi := exec_performs i
    rw [hp] at hi
    exact hi.othersKept ht q hq
  · intro i s p hp hs
    have hi := exec_performs i
    rw [hp] at hi
    exact hi.absent hs
  · intro i s hs
    exact (exec_performs i).answers hs

end Sys2Proof.Machine
end

section
/-! PROOFS. O15: R41 (d) to (f) across turns (10_state.md R41; log 37). The work of the main context and the views of the
ports change together (`PipeAfterAll`); the interrupt agent and the bus agent leave both as they are (`ViewsKept`). -/

namespace Sys2Proof.Machine

/-! ## Which context the next steps belong to (20_memory.md R64) -/

theorem mainTask_of_taskPort {p : Port} {u : Task} (h : taskPort u = some p) : mainTask u = true := by
  cases u <;> simp_all [taskPort, mainTask]

theorem mainTask_of_onPort {p : Port} {ts : List Task} (h : OnPort p ts) : ∀ u ∈ ts, mainTask u = true :=
  fun u hu => mainTask_of_taskPort (h u hu)

theorem mainTask_eventTasks (a : App) (ev : Option Event) : ∀ u ∈ eventTasks a ev, mainTask u = true := by
  have happ (p : Port) (calls : List AppCall) := mainTask_of_onPort (onPort_appTasks p calls)
  cases ev with
  | none =>
    intro u hu
    obtain ⟨x, _, hx⟩ := List.mem_flatMap.1 hu
    exact happ _ _ u hx
  | some ev =>
    cases ev <;> simp only [eventTasks]
    case busReset q => exact List.forall_mem_cons.2 ⟨rfl, happ _ _⟩
    case unknownInterrupt => simp [mainTask]
    case error => simp [mainTask]
    all_goals
      split
      · simp [mainTask]
      · exact happ _ _

/-- The main context goes on with work of its own. -/
theorem taskStep_mainTask {u : Task} (s : State) (hu : mainTask u = true) : ∀ w ∈ (taskStep u s).next, mainTask w = true := by
  cases hp : taskPort u with
  | some p => exact mainTask_of_onPort (taskStep_touches s hp).2
  | none =>
    cases u <;> simp only [taskPort, mainTask, reduceCtorEq, Bool.false_eq_true] at hp hu
    case mainPop => exact mainTask_eventTasks _ _
    all_goals simp [taskStep, goOn]

/-- So does the dispatcher. -/
theorem taskStep_irqTask {u : Task} (s : State) (hu : irqTask u = true) : ∀ w ∈ (taskStep u s).next, irqTask w = true := by
  cases u <;> simp only [irqTask, Bool.false_eq_true] at hu
  case call p o => cases o <;> simp_all [irqTask, taskStep, callStep, goOn]
  case sw => simp [taskStep, goOn]
  case irqScan chain extra =>
    cases chain with
    | nil => simp [taskStep, goOn, irqScanTasks, irqTask]
    | cons x chain =>
      simp only [taskStep, goOn, irqScanTasks]
      split <;> simp [irqTask]
  case irqHandler p src => cases src <;> simp [taskStep, goOn, irqHandlerTasks, irqTask]
  case irqEpno p use => cases use <;> simp [taskStep, goOn, irqEpnoTasks, irqTask]
  case irqUnknown => simp [taskStep, goOn, irqTask]
  case evqPush => simp [taskStep]

/-! ## What leaves the views and the main context's work alone -/

/-- What `PipeInvWork` speaks of is as before. -/
structure ViewsKept (s t : State) : Prop where
  cfg : t.cfg = s.cfg
  main : t.main = s.main
  swLength : t.sw.length = s.sw.length
  view : ∀ p, pipeView t p = pipeView s p

namespace ViewsKept

theorem refl (s : State) : ViewsKept s s := ⟨rfl, rfl, rfl, fun _ => rfl⟩

theorem trans {s t u : State} (h : ViewsKept s t) (h' : ViewsKept t u) : ViewsKept s u :=
  ⟨h'.cfg.trans h.cfg, h'.main.trans h.main, h'.swLength.trans h.swLength, fun p => (h'.view p).trans (h.view p)⟩

theorem setRet (r : Ret) (s : State) : ViewsKept s (setRet r s) := ⟨rfl, rfl, rfl, fun _ => rfl⟩

theorem ofTouches {p : Port} {s t : State} (h : Touches p s t) (hp : pipeView t p = pipeView s p) : ViewsKept s t where
  cfg := h.cfg
  main := h.main
  swLength := h.swLength
  view q := by
    by_cases hq : q = p
    · rw [hq, hp]
    · exact pipeView_touches h hq

theorem pipeInvWork {s t : State} (h : ViewsKept s t) (hs : PipeInvWork s) : PipeInvWork t := by
  intro p hp
  rw [h.cfg, h.main, h.view]
  exact hs p (h.swLength ▸ hp)

end ViewsKept

theorem pipeView_pendingTxAck (p : Port) (b : Bool) (s : State) :
    pipeView (swWrite p (.pendingTxAck b) s) p = pipeView s p := by
  by_cases hp : p < s.sw.length <;> simp [pipeView, latched, swWrite, hp]

/-- No step of the dispatcher writes what R41 (d) to (f) speak of. -/
theorem taskStep_viewsKept {u : Task} (s : State) (hu : irqTask u = true) : ViewsKept s (taskStep u s).state := by
  cases u <;> simp only [irqTask, Bool.false_eq_true] at hu
  case call p o => exact .ofTouches (taskStep_touches s rfl).1 (pipeView_callStep p o s)
  case sw p w =>
    cases w <;> simp only [Bool.false_eq_true] at hu
    case pendingTxAck b => exact .ofTouches (taskStep_touches s rfl).1 (pipeView_pendingTxAck p b s)
  case evqPush ev =>
    exact ⟨cfg_opEvqPush ev s, main_opEvqPush ev s, by simp [taskStep], fun p => pipeView_congr (swOf_opEvqPush ev s p)⟩
  all_goals exact .refl s

theorem runTasks_viewsKept {ts : List Task} (n : Nat) (s : State) (h : ∀ u ∈ ts, irqTask u = true) :
    ViewsKept s (runTasks n ts s).2 :=
  (runTasks_induct (P := ViewsKept s) (Q := fun u => irqTask u = true)
    (fun _ t hu ht => ⟨taskStep_irqTask t hu, ht.trans (taskStep_viewsKept t hu)⟩) n ts s h (.refl s)).2

theorem startIrq_viewsKept {ts : List Task} {s t : State} (hts : ∀ u ∈ ts, irqTask u = true)
    (h : startIrq ts s = .next t) : ViewsKept s t := by
  rcases startIrq_next h with rfl | rfl
  · exact .setRet ..
  · have hrun := runTasks_viewsKept (turnLength s) (setRet .nothing s) hts
    exact ⟨hrun.cfg, hrun.main, hrun.swLength, hrun.view⟩

theorem continueIrq_viewsKept {s t : State} (hs : ∀ u ∈ s.irq, irqTask u = true) (h : continueIrq s = .next t) :
    ViewsKept s t := by
  cases continueIrq_next h
  have hrun := runTasks_viewsKept (turnLength s) (irqStart s) hs
  exact ⟨hrun.cfg, hrun.main, hrun.swLength, hrun.view⟩

theorem irqTurn_viewsKept {s t : State} (hs : ∀ u ∈ s.irq, irqTask u = true) (h : irqTurn s = .next t) : ViewsKept s t := by
  rcases irqTurn_next h with rfl | ⟨u, rfl | rfl, hu⟩
  · exact .setRet ..
  · exact continueIrq_viewsKept hs hu
  · have henter : ViewsKept s (enterInterrupt s) := ⟨rfl, rfl, rfl, fun _ => rfl⟩
    exact henter.trans (continueIrq_viewsKept (by simp [enterInterrupt, irqTask]) hu)

theorem irqAtomic_push_viewsKept {ev : Event} {s t : State} (h : irqAtomic (opEvqPush ev) s = .next t) : ViewsKept s t := by
  rcases irqAtomic_next h with rfl | rfl
  · exact .setRet ..
  · exact (taskStep_viewsKept (u := .evqPush ev) s rfl).trans (.setRet ..)

theorem Performs.interrupt_viewsKept {op : Option Port} {f : State → Answer} (hf : Performs op .interrupt f) {s t : State}
    (hs : ∀ u ∈ s.irq, irqTask u = true) (h : f s = .next t) : ViewsKept s t := by
  cases hf
  case handler p src => exact startIrq_viewsKept (by simp [irqTask]) (onPort_next h).2
  case unknown extra => exact startIrq_viewsKept (by simp [irqTask]) h
  case entry => exact irqTurn_viewsKept hs h
  case pushOn p ev _ => exact irqAtomic_push_viewsKept (onPort_next h).2
  case push ev _ => exact irqAtomic_push_viewsKept h

theorem Performs.bus_viewsKept {op : Option Port} {f : State → Answer} (hf : Performs op .bus f) {s t : State}
    (h : f s = .next t) : ViewsKept s t := by
  cases hf
  case host p g guard hm =>
    rcases busMove_next (onPort_next h).2 with rfl | rfl
    · exact .setRet ..
    · have hview : pipeView (g s) p = pipeView s p := pipeView_congr (swOf_congr (sw_hostMove hm s) p)
      exact (ViewsKept.ofTouches (touches_hostMove hm s) hview).trans (.setRet ..)
  case spurious extra =>
    rcases busMove_next h with rfl | rfl
    · exact .setRet ..
    · exact ⟨rfl, rfl, rfl, fun _ => rfl⟩

/-! ## A turn of the main agent -/

/-- What the views of all ports must meet before the work `ts` for R41 (d) to (f) to hold after it; `PipeInvWork s` is
`PipeAfterAll s.main s`. -/
def PipeAfterAll (ts : List Task) (s : State) : Prop :=
  ∀ p, p < s.sw.length → PipeAfter s.cfg p ts (PipeOk s.cfg) (pipeView s p)

theorem length_sw_taskStep (u : Task) (s : State) : (taskStep u s).state.sw.length = s.sw.length := by
  cases hp : taskPort u with
  | some p => exact (taskStep_touches s hp).1.swLength
  | none =>
    cases u <;> simp only [taskPort, reduceCtorEq] at hp
    case evqPush ev => exact congrArg List.length (sw_opEvqPush ev s)
    all_goals rfl

/-- One step of the main context: the work that takes its place asks of the new views what the step asked of the old. -/
theorem taskStep_pipeAfterAll {u : Task} {ts : List Task} {s : State} (hu : mainTask u = true)
    (h : PipeAfterAll (u :: ts) s) : PipeAfterAll ((taskStep u s).next ++ ts) (taskStep u s).state := by
  intro p hp
  rw [length_sw_taskStep] at hp
  have hv := h p hp
  rw [(taskStep_keeps u s).cfg, pipeAfter_append]
  cases hq : taskPort u with
  | none =>
    simp only [PipeAfter, hq, or_true, if_true] at hv
    exact taskStep_pipeAfter_loop s hq hu _ hv
  | some q =>
    obtain ⟨htouch, hon⟩ := taskStep_touches s hq
    by_cases hpq : q = p
    · subst hpq
      rw [pipeAfter_cons _ _ _ _ _ _ hq] at hv
      exact taskStep_pipeAfter s hp hq _ hv
    · rw [pipeAfter_other _ _ _ hpq _ _ _ hon, pipeView_touches htouch (Ne.symm hpq)]
      have hne : ¬(some q = some p ∨ (some q : Option Port) = none) := by simp [hpq]
      simpa only [PipeAfter, hq, if_neg hne] using hv

/-- A relation between the work and the state that every step keeps is kept by a turn. -/
theorem runTasks_relates {R : List Task → State → Prop}
    (hstep : ∀ u ts s, R (u :: ts) s → R ((taskStep u s).next ++ ts) (taskStep u s).state) (n : Nat) (ts : List Task)
    (s : State) (h : R ts s) : R (runTasks n ts s).1 (runTasks n ts s).2 := by
  induction n generalizing ts s with
  | zero => exact h
  | succ n ih =>
    cases ts with
    | nil => simpa using h
    | cons u ts =>
      have hnext := hstep u ts s h
      cases hw : (taskStep u s).waits with
      | true => rw [runTasks_waits hw]; exact hnext
      | false => rw [runTasks_goOn hw]; exact ih _ _ hnext

theorem runTasks_pipeAfterAll (n : Nat) {ts : List Task} {s : State} (hts : ∀ u ∈ ts, mainTask u = true)
    (h : PipeAfterAll ts s) : PipeAfterAll (runTasks n ts s).1 (runTasks n ts s).2 := by
  refine (runTasks_relates (R := fun ts s => (∀ u ∈ ts, mainTask u = true) ∧ PipeAfterAll ts s) ?_ n ts s ⟨hts, h⟩).2
  rintro u ts s ⟨hts, h⟩
  obtain ⟨hu, hrest⟩ := List.forall_mem_cons.1 hts
  exact ⟨List.forall_mem_append.2 ⟨taskStep_mainTask s hu, hrest⟩, taskStep_pipeAfterAll hu h⟩

theorem mainWork_nil {s : State} (h : s.main = []) : mainWork s = [.mainPop] := by
  simp [mainWork, h]

theorem mainWork_cons {s : State} {u : Task} {ts : List Task} (h : s.main = u :: ts) : mainWork s = s.main := by
  simp [mainWork, h]

theorem mainTask_mainWork {s : State} (hs : ∀ u ∈ s.main, mainTask u = true) : ∀ u ∈ mainWork s, mainTask u = true := by
  cases h : s.main with
  | nil => simp [mainWork_nil h, mainTask]
  | cons u ts => rw [mainWork_cons h]; exact hs

/-- The main agent starts with the work suspended, or with a pop, which asks for R41 (d) to (f) (R181). -/
theorem pipeAfterAll_mainWork {s : State} (hs : PipeInvWork s) : PipeAfterAll (mainWork s) (mainStart s) := by
  cases h : s.main with
  | nil =>
    intro p hp
    have hok := hs p hp
    rw [h] at hok
    rw [mainWork_nil h]
    exact ⟨hok, fun _ hv => hv⟩
  | cons u ts => rw [mainWork_cons h]; exact hs

theorem mainTurn_pipeInvWork {s t : State} (hmain : ∀ u ∈ s.main, mainTask u = true) (hs : PipeInvWork s)
    (h : mainTurn s = .next t) : PipeInvWork t := by
  rcases mainTurn_next h with rfl | rfl
  · exact (ViewsKept.setRet ..).pipeInvWork hs
  · exact runTasks_pipeAfterAll (turnLength s) (mainTask_mainWork hmain) (pipeAfterAll_mainWork hs)

/-! ## Between two iterations -/

/-- A port at power-on, and so what stands for an absent port, meets R41 (d) to (f). -/
theorem pipeOk_of_reset {s : State} {p : Port} (h : swOf s p = SwPort.reset) (c : Params) : PipeOk c (pipeView s p) := by
  rw [pipeView, h]
  exact ⟨⟨Nat.zero_le _, Nat.zero_le _, fun _ => ⟨rfl, rfl⟩⟩, fun hd => absurd rfl hd, .inl rfl⟩

theorem pipeInvWork_iff_pipeInv {s : State} (h : s.main = []) : PipeInvWork s ↔ PipeInv s := by
  unfold PipeInvWork PipeInv
  simp only [h, pipeAfter_nil]
  refine ⟨fun hs p => ?_, fun hs p _ => hs p⟩
  by_cases hp : p < s.sw.length
  · exact hs p hp
  · exact pipeOk_of_reset (swOf_absent (Nat.le_of_not_lt hp)) s.cfg

/-- Settles O15: the main agent's steps keep the work and the views in accord; the other agents change neither. -/
theorem pipeInvKeptByEveryTurn : Obligations.PipeInvKeptByEveryTurn := by
  refine ⟨?_, fun s hs => pipeInvWork_iff_pipeInv hs⟩
  intro i s t hi hc hs ht
  have hperf := exec_performs i
  rcases hi with rfl | hag | hag
  · exact mainTurn_pipeInvWork hc.main hs ht
  · rw [hag] at hperf
    exact (hperf.bus_viewsKept ht).pipeInvWork hs
  · rw [hag] at hperf
    exact (hperf.interrupt_viewsKept hc.irq ht).pipeInvWork hs

end Sys2Proof.Machine
end

section
/-! PROOFS. O11 and O13: the machine at power-on (10_state.md R42, R41; 70_reset_and_hazards.md R291). -/

namespace Sys2Proof.Machine

@[simp] theorem hwOf_powerOn (c : Params) (p : Port) : hwOf (State.powerOn c) p = HwPort.reset p := by
  by_cases hp : p < c.nports <;> simp [hwOf, State.powerOn, hp]

@[simp] theorem swOf_powerOn (c : Params) (p : Port) : swOf (State.powerOn c) p = SwPort.reset := by
  by_cases hp : p < c.nports <;> simp [swOf, State.powerOn, hp]

/-- No source is enabled or pending, so the line is low. -/
theorem irqLine_powerOn (c : Params) : irqLine (State.powerOn c) = false := by
  simp [irqLine, State.powerOn, portLine, HwPort.reset, SrcBits.zero]

/-- Settles O11: each field of the power-on state is read off. -/
theorem powerOnState : Obligations.PowerOnState := by
  refine ⟨fun c => ⟨?_, ?_, fun p _ => ⟨Config.powerOnSpeed p, hwOf_powerOn c p⟩, fun p _ => swOf_powerOn c p, rfl,
    irqLine_powerOn c, rfl⟩, rfl, rfl, rfl⟩
  · simp [State.powerOn]
  · simp [State.powerOn]

theorem inv_powerOn {c : Params} (h : c.Legal) : Inv (State.powerOn c) := by
  rw [inv_iff]
  refine ⟨fun p => ?_, Nat.zero_le _, ⟨by simp [State.powerOn], by simp [State.powerOn], h⟩⟩
  rw [hwOf_powerOn]
  exact ⟨rfl, Nat.zero_le _, Nat.zero_le _, Nat.zero_le _⟩

theorem legal_default : Params.default.Legal := by
  constructor <;> decide

theorem onPort_bootPort (p : Port) : OnPort p (bootPort p) := by
  simp [bootPort, taskPort]

/-- The boot sequence of any ports asks nothing of a view. -/
theorem pipeAfter_bootPorts (c : Params) (p : Port) (Q : PipeView → Prop) (v : PipeView) (ports : List Port) :
    PipeAfter c p (ports.flatMap bootPort) Q v ↔ Q v := by
  induction ports with
  | nil => rfl
  | cons q ports ih =>
    rw [List.flatMap_cons, pipeAfter_append]
    by_cases hq : q = p
    · rw [hq, pipeAfter_boot, ih]
    · rw [pipeAfter_other _ _ _ hq _ _ _ (onPort_bootPort q), ih]

theorem pipeOk_powerOn (c : Params) (p : Port) : PipeOk c (pipeView (State.powerOn c) p) :=
  pipeOk_of_reset (swOf_powerOn c p) c

theorem pipeInvWork_powerOn (c : Params) : PipeInvWork (State.powerOn c) := fun p _ =>
  (pipeAfter_bootPorts c p _ _ _).2 (pipeOk_powerOn c p)

theorem contexts_powerOn (c : Params) : Contexts (State.powerOn c) where
  main u hu := by
    obtain ⟨p, _, hp⟩ := List.mem_flatMap.1 hu
    exact mainTask_of_onPort (onPort_bootPort p) u hp
  irq := by simp [State.powerOn]

/-- Settles O13. -/
theorem invariantsAtPowerOn : Obligations.InvariantsAtPowerOn :=
  ⟨fun _ => inv_powerOn, legal_default, fun c => ⟨pipeOk_powerOn c, pipeInvWork_powerOn c, contexts_powerOn c⟩⟩

end Sys2Proof.Machine
end

section
/-! PROOFS. O16: each context only ever holds work of its own (20_memory.md R64). A step of either context leaves work of that
context (`taskStep_mainTask`, `taskStep_irqTask`), and no step writes the work that is suspended (`taskStep_keeps`). -/

namespace Sys2Proof.Machine

theorem contexts_congr {s t : State} (h : Contexts s) (hmain : t.main = s.main) (hirq : t.irq = s.irq) : Contexts t where
  main u hu := h.main u (hmain ▸ hu)
  irq u hu := h.irq u (hirq ▸ hu)

theorem contexts_ofTouches {p : Port} {s t : State} (h : Contexts s) (ht : Touches p s t) : Contexts t :=
  contexts_congr h ht.main ht.irq

/-- What a turn leaves of main work is main work. -/
theorem runTasks_mainTask (n : Nat) {ts : List Task} (s : State) (h : ∀ u ∈ ts, mainTask u = true) :
    ∀ u ∈ (runTasks n ts s).1, mainTask u = true :=
  (runTasks_induct (P := fun _ => True) (Q := fun u => mainTask u = true)
    (fun _ t hu _ => ⟨taskStep_mainTask t hu, trivial⟩) n ts s h trivial).1

/-- What a turn leaves of the dispatcher's work is the dispatcher's. -/
theorem runTasks_irqTask (n : Nat) {ts : List Task} (s : State) (h : ∀ u ∈ ts, irqTask u = true) :
    ∀ u ∈ (runTasks n ts s).1, irqTask u = true :=
  (runTasks_induct (P := fun _ => True) (Q := fun u => irqTask u = true)
    (fun _ t hu _ => ⟨taskStep_irqTask t hu, trivial⟩) n ts s h trivial).1

theorem startMain_contexts {ts : List Task} {s t : State} (hts : ∀ u ∈ ts, mainTask u = true) (hs : Contexts s)
    (h : startMain ts s = .next t) : Contexts t := by
  rcases startMain_next h with rfl | rfl
  · exact contexts_congr hs rfl rfl
  · have hkeep := runTasks_keeps_all (turnLength s) ts (setRet .nothing s)
    exact ⟨List.forall_mem_append.2 ⟨runTasks_mainTask _ _ hts, hs.main⟩, fun u hu => hs.irq u (hkeep.irq ▸ hu)⟩

theorem mainTurn_contexts {s t : State} (hs : Contexts s) (h : mainTurn s = .next t) : Contexts t := by
  rcases mainTurn_next h with rfl | rfl
  · exact contexts_congr hs rfl rfl
  · have hkeep := runTasks_keeps_all (turnLength s) (mainWork s) (mainStart s)
    exact ⟨runTasks_mainTask _ _ (mainTask_mainWork hs.main), fun u hu => hs.irq u (hkeep.irq ▸ hu)⟩

theorem startIrq_contexts {ts : List Task} {s t : State} (hts : ∀ u ∈ ts, irqTask u = true) (hs : Contexts s)
    (h : startIrq ts s = .next t) : Contexts t := by
  rcases startIrq_next h with rfl | rfl
  · exact contexts_congr hs rfl rfl
  · have hkeep := runTasks_keeps_all (turnLength s) ts (setRet .nothing s)
    exact ⟨fun u hu => hs.main u (hkeep.main ▸ hu), List.forall_mem_append.2 ⟨runTasks_irqTask _ _ hts, hs.irq⟩⟩

theorem continueIrq_contexts {s t : State} (hs : Contexts s) (h : continueIrq s = .next t) : Contexts t := by
  cases continueIrq_next h
  have hkeep := runTasks_keeps_all (turnLength s) s.irq (irqStart s)
  exact ⟨fun u hu => hs.main u (hkeep.main ▸ hu), runTasks_irqTask _ _ hs.irq⟩

/-- An entry puts the priority chain, work of the dispatcher, before the interrupt context (60_exceptions.md R267). -/
theorem enterInterrupt_contexts {s : State} (hs : Contexts s) : Contexts (enterInterrupt s) where
  main := hs.main
  irq := by simp [enterInterrupt, irqTask]

theorem irqTurn_contexts {s t : State} (hs : Contexts s) (h : irqTurn s = .next t) : Contexts t := by
  rcases irqTurn_next h with rfl | ⟨u, rfl | rfl, hu⟩
  · exact contexts_congr hs rfl rfl
  · exact continueIrq_contexts hs hu
  · exact continueIrq_contexts (enterInterrupt_contexts hs) hu

theorem irqAtomic_push_contexts {ev : Event} {s t : State} (hs : Contexts s) (h : irqAtomic (opEvqPush ev) s = .next t) :
    Contexts t := by
  rcases irqAtomic_next h with rfl | rfl
  · exact contexts_congr hs rfl rfl
  · exact contexts_congr hs (main_opEvqPush ev s) (irq_opEvqPush ev s)

theorem mainAtomic_contexts {r : State → Ret} {f : State → State} {s t : State} (hf : Contexts (f s)) (hs : Contexts s)
    (h : mainAtomic r f s = .next t) : Contexts t := by
  rcases mainAtomic_next h with rfl | rfl
  · exact contexts_congr hs rfl rfl
  · exact contexts_congr hf rfl rfl

theorem busMove_contexts {guard : State → Bool} {f : State → State} {s t : State} (hf : Contexts (f s)) (hs : Contexts s)
    (h : busMove guard f s = .next t) : Contexts t := by
  rcases busMove_next h with rfl | rfl
  · exact contexts_congr hs rfl rfl
  · exact contexts_congr hf rfl rfl

/-- However an instruction is performed, the contexts keep to work of their own. -/
theorem Performs.contexts {op : Option Port} {ag : Agent} {f : State → Answer} (hf : Performs op ag f) {s t : State}
    (hs : Contexts s) (h : f s = .next t) : Contexts t := by
  cases hf
  case value r => cases h; exact contexts_congr hs rfl rfl
  case operation p o r =>
    exact mainAtomic_contexts (contexts_ofTouches hs (touches_callStep p o s).1) hs (onPort_next h).2
  case connect p sp => exact mainAtomic_contexts (contexts_ofTouches hs (touches_opConnect p sp s)) hs (onPort_next h).2
  case turn p ts hts => exact startMain_contexts (mainTask_of_onPort hts) hs (onPort_next h).2
  case pop => exact mainAtomic_contexts (contexts_congr hs rfl rfl) hs h
  case mainStep => exact mainTurn_contexts hs h
  case handler p src => exact startIrq_contexts (by simp [irqTask]) hs (onPort_next h).2
  case unknown extra => exact startIrq_contexts (by simp [irqTask]) hs h
  case entry => exact irqTurn_contexts hs h
  case pushOn p ev _ => exact irqAtomic_push_contexts hs (onPort_next h).2
  case push ev _ => exact irqAtomic_push_contexts hs h
  case host p g guard hm => exact busMove_contexts (contexts_ofTouches hs (touches_hostMove hm s)) hs (onPort_next h).2
  case spurious extra => exact busMove_contexts (contexts_congr hs rfl rfl) hs h

/-- Settles O16, from the ways of performing an instruction. -/
theorem contextsKeptByStep : Obligations.ContextsKeptByStep := by
  intro s t hs ht
  obtain ⟨i, rest, hi⟩ := step_next ht
  have hs' : Contexts { s with stream := rest } := contexts_congr hs rfl rfl
  exact (exec_performs i).contexts hs' hi

end Sys2Proof.Machine
end

section
/-! PROOFS. O19 and O33: the bus agent's moves (42_register_ops.md section 7): what one writes, and when it does nothing. -/

namespace Sys2Proof.Machine

/-- From `s` to `t` only HW, at most one new entry of the trace, `spurious` and `ret` differ. -/
def WritesHwOnly (s t : State) : Prop :=
  ∃ l : List Obs, l.length ≤ 1 ∧
    t = { s with hw := t.hw, g := { s.g with obs := s.g.obs ++ l }, spurious := t.spurious, ret := t.ret }

theorem writesHwOnly_own (s : State) (x : Option Nat) (r : Ret) : WritesHwOnly s { s with spurious := x, ret := r } :=
  ⟨[], Nat.zero_le _, by simp⟩

/-- A host move adds one entry to the trace: the host's reset, packet or handshake. -/
theorem writesHwOnly_hostMove {p : Port} {f : State → State} (hf : HostMove p f) (r : Ret) (s : State) :
    WritesHwOnly s (setRet r (f s)) := by
  cases hf with
  | busReset sp => exact ⟨[.busReset p], le_rfl, rfl⟩
  | setup e bytes => exact ⟨[.setup p e bytes], le_rfl, rfl⟩
  | outPacket e bytes => exact ⟨[.outPacket p e bytes], le_rfl, rfl⟩
  | inTake e => exact ⟨[.inPacket p e (hwOf s p).inFifo], le_rfl, rfl⟩
  | seesStall d e => exact ⟨[.hostStall p d e], le_rfl, rfl⟩

theorem Performs.bus_writesHwOnly {op : Option Port} {f : State → Answer} (hf : Performs op .bus f) {s t : State}
    (h : f s = .next t) : WritesHwOnly s t := by
  cases hf
  case host p g guard hm =>
    rcases busMove_next (onPort_next h).2 with rfl | rfl
    · exact writesHwOnly_own s s.spurious .disabled
    · exact writesHwOnly_hostMove hm .nothing s
  case spurious extra =>
    rcases busMove_next h with rfl | rfl
    · exact writesHwOnly_own s s.spurious .disabled
    · exact writesHwOnly_own s (some extra) .nothing

/-- Settles O19: a bus move whose port is there answers, and by its effect writes HW and the trace only. -/
theorem busMovesWriteHwOnly : Obligations.BusMovesWriteHwOnly := by
  intro i s hag hp
  have hperf := exec_performs i
  rw [hag] at hperf
  obtain ⟨t, ht⟩ := hperf.answers hp
  exact ⟨t, ht, hperf.bus_writesHwOnly ht⟩

/-! ## When a guard does not hold: one of its conjuncts fails -/

theorem hostSetupGuard_eq_false_iff {p : Port} {a : DevAddr} {s : State} :
    hostSetupGuard p a s = false ↔ (hwOf s p).connect = false ∨ a ≠ (hwOf s p).epcAddress := by
  simp only [hostSetupGuard, Bool.and_eq_false_iff, decide_eq_false_iff_not, ne_eq]

theorem hostOutGuard_eq_false_iff {p : Port} {a : DevAddr} {e : EpNo} {s : State} :
    hostOutGuard p a e s = false ↔ (hwOf s p).connect = false ∨
      a ≠ (hwOf s p).outAddress ∨ epBit (hwOf s p).outPrimed e = false ∨ stallBit (hwOf s p) .out e = true := by
  simp only [hostOutGuard, Bool.and_eq_false_iff, decide_eq_false_iff_not, Bool.not_eq_false', or_assoc, ne_eq]

theorem hostInGuard_eq_false_iff {p : Port} {a : DevAddr} {e : EpNo} {s : State} :
    hostInGuard p a e s = false ↔ (hwOf s p).connect = false ∨ a ≠ (hwOf s p).epcAddress ∨
      (hwOf s p).inFlight = false ∨ (hwOf s p).inEpno ≠ e ∨ stallBit (hwOf s p) .inp e = true := by
  simp only [hostInGuard, Bool.and_eq_false_iff, decide_eq_false_iff_not, Bool.not_eq_false', or_assoc, ne_eq]

theorem hostSeesStallGuard_eq_false_iff {p : Port} {a : DevAddr} {d : Dir} {e : EpNo} {s : State} :
    hostSeesStallGuard p a d e s = false ↔ (hwOf s p).connect = false ∨ a ≠ tokenAddress (hwOf s p) d ∨
      stallBit (hwOf s p) d e = false := by
  simp only [hostSeesStallGuard, Bool.and_eq_false_iff, decide_eq_false_iff_not, or_assoc, ne_eq]

/-- A host move on a port that is there, whose guard does not hold, changes nothing but `ret` (log 15). -/
theorem onPort_busMove_disabled {p : Port} {guard : State → Bool} {f : State → State} {s : State}
    (hp : portExists p s = true) (hg : guard s = false) :
    onPort p (busMove guard f) s = .next { s with ret := .disabled } :=
  (onPort_exists hp).trans (busMove_disabled hg)

/-- Settles O33: each conjunct that fails makes its guard false. -/
theorem unmetGuardNoEffect : Obligations.UnmetGuardNoEffect := by
  intro p a e s hp
  have hsetup (h : hostSetupGuard p a s = false) (bytes : List Byte) :
      exec (.hostSetup p a e bytes) s = .next { s with ret := .disabled } := onPort_busMove_disabled hp h
  have hout (h : hostOutGuard p a e s = false) (bytes : List Byte) :
      exec (.hostOutPacket p a e bytes) s = .next { s with ret := .disabled } := onPort_busMove_disabled hp h
  have hin (h : hostInGuard p a e s = false) :
      exec (.hostInTake p a e) s = .next { s with ret := .disabled } := onPort_busMove_disabled hp h
  have hstall (d : Dir) (h : hostSeesStallGuard p a d e s = false) :
      exec (.hostSeesStall p a d e) s = .next { s with ret := .disabled } := onPort_busMove_disabled hp h
  rw [hostSetupGuard_eq_false_iff] at hsetup
  rw [hostOutGuard_eq_false_iff] at hout
  rw [hostInGuard_eq_false_iff] at hin
  simp only [hostSeesStallGuard_eq_false_iff] at hstall
  refine ⟨fun hc => ⟨fun sp => ?_, hsetup (.inl hc), hout (.inl hc), hin (.inl hc), fun d => hstall d (.inl hc)⟩,
    fun ha => ⟨hsetup (.inr ha), hin (.inr (.inl ha))⟩, fun h => hout (.inr h), fun h => hin (.inr (.inr h)),
    fun ha => hstall .inp (.inr (.inl ha)), fun ha => hstall .out (.inr (.inl ha)),
    fun d h => hstall d (.inr (.inr h))⟩
  exact onPort_busMove_disabled (guard := hostBusResetGuard p) hp hc

end Sys2Proof.Machine
end

section
/-! PROOFS. O10: which instruction a step performs (20_memory.md R61, R68; 30_encoding.md R98; logs 1, 21, 30). -/

namespace Sys2Proof.Machine

theorem step_of_decode {s : State} {u : Stimulus} {rest : List Stimulus} {i : Instr} {r : List Byte}
    (hs : s.stream = u :: rest) (hd : decode u.view u.bytes = .ok (i, r)) : step s = exec i { s with stream := rest } := by
  simp only [step, hs, hd]

theorem step_of_decodeError {s : State} {u : Stimulus} {rest : List Stimulus} {e : DecodeError}
    (hs : s.stream = u :: rest) (hd : decode u.view u.bytes = .error e) : step s = .fault (.noSuchStimulus e) := by
  simp only [step, hs, hd]

/-- With no stimulus left the idle policy chooses (log 1). -/
theorem step_of_idle {s : State} (hs : s.stream = []) : step s = exec (idleInstr s) s := by
  simp only [step, hs]

theorem idleInstr_interrupt {s : State} (h : s.irq ≠ [] ∨ irqEnabled s = true) : idleInstr s = .irqEntry := by
  have hgo : (!s.irq.isEmpty || irqEnabled s) = true := by simpa [or_iff_not_imp_left] using h
  rw [idleInstr, if_pos hgo]

theorem idleInstr_main {s : State} (hirq : s.irq = []) (he : irqEnabled s = false) : idleInstr s = .mainStep := by
  simp [idleInstr, hirq, he]

theorem decode_of_decodeTableWord {n w : Nat} {i : Instr} (h : decodeTableWord n w = some i) :
    ∃ r, decode (tableStimulus n w).view (tableStimulus n w).bytes = .ok (i, r) := by
  unfold decodeTableWord at h
  split at h
  · next j r hd => cases h; exact ⟨r, hd⟩
  · cases h

/-- Settles O10. -/
theorem stepRunsDecodedInstruction : Obligations.StepRunsDecodedInstruction := by
  refine ⟨fun s u rest i r => step_of_decode, fun s u rest e => step_of_decodeError, ?_, ?_, ?_⟩
  · intro s hs h
    rw [step_of_idle hs, idleInstr_interrupt h]
  · intro s hs hirq he
    rw [step_of_idle hs, idleInstr_main hirq he]
  · intro s n w i h
    obtain ⟨r, hd⟩ := decode_of_decodeTableWord h
    exact step_of_decode (s := s.withFetchWord n w) rfl hd

end Sys2Proof.Machine
end

section
/-! PROOFS. O18: a run of the dispatcher cut in two (20_memory.md R62; log 2). The dispatcher waits only where it halts, so two
of its turns are one turn of their joint length (`runTasks_add`); none of its steps looks at `ret` or at the turn's length. -/

namespace Sys2Proof.Machine

/-- The dispatcher's one step that can end a turn is the push that finds the queue full, which is fatal (R178). -/
theorem fatal_of_irqTask_waits {u : Task} {s : State} (hu : irqTask u = true) (hw : (taskStep u s).waits = true) :
    (taskStep u s).state.g.fatal = true := by
  cases u <;> simp only [irqTask, Bool.false_eq_true] at hu
  case call p o => cases o <;> simp_all [taskStep, callStep, goOn]
  case evqPush ev => exact hw
  all_goals simp [taskStep, goOn] at hw

/-- So a turn of the dispatcher that leaves the machine running took no step that waits. -/
theorem runTasks_add_of_irqTask (n m : Nat) {ts : List Task} {s : State} (hts : ∀ u ∈ ts, irqTask u = true)
    (hf : (runTasks n ts s).2.g.fatal = false) :
    runTasks (n + m) ts s = runTasks m (runTasks n ts s).1 (runTasks n ts s).2 := by
  refine runTasks_add n m ts s ?_
  rintro k _ s' hk hr u rest rfl
  by_contra hwaits
  have hw : (taskStep u s').waits = true := by simpa using hwaits
  have hcut : runTasks k ts s = (u :: rest, s') := by simpa using hr 0 []
  have hu : irqTask u = true := runTasks_irqTask k s hts u (by simp [hcut])
  have hend : runTasks n ts s = ((taskStep u s').next ++ rest, (taskStep u s').state) := by
    have hrest := hr (n - k - 1 + 1) []
    rw [List.append_nil, List.append_nil, show n - k - 1 + 1 + k = n by omega, runTasks_waits hw] at hrest
    exact hrest
  rw [hend, fatal_of_irqTask_waits hu hw] at hf
  cases hf

theorem taskStep_ret_of_irqTask {u : Task} (s : State) (hu : irqTask u = true) : (taskStep u s).state.ret = s.ret := by
  cases u <;> simp only [irqTask, Bool.false_eq_true] at hu
  case call p o => cases o <;> simp only [Bool.false_eq_true] at hu <;> rfl
  case evqPush ev => exact ret_opEvqPush ev s
  all_goals rfl

theorem runTasks_ret_of_irqTask (n : Nat) {ts : List Task} (s : State) (hts : ∀ u ∈ ts, irqTask u = true) :
    (runTasks n ts s).2.ret = s.ret :=
  (runTasks_induct (P := fun t => t.ret = s.ret) (Q := fun u => irqTask u = true)
    (fun _ t hu ht => ⟨taskStep_irqTask t hu, (taskStep_ret_of_irqTask t hu).trans ht⟩) n ts s hts rfl).2

/-- The end of a turn of the dispatcher: what is left of its work is suspended. -/
def suspendIrq (r : List Task × State) : State := { r.2 with irq := r.1 }

/-- What `n` steps of the dispatcher's run in progress leave. -/
def irqRun (n : Nat) (s : State) : State := suspendIrq (runTasks n s.irq (irqStart s))

theorem continueIrq_quantum (n : Nat) (s : State) :
    continueIrq { s with quantum := some n } = .next { irqRun n s with quantum := some n } := by
  have hrun := runTasks_quantum n s.irq (irqStart s) (some n)
  exact congrArg (fun r => (.next (suspendIrq r) : Answer)) hrun

theorem irqStart_with_irq {t : State} (ts : List Task) (hirq : t.irq = []) (hret : t.ret = .nothing) :
    irqStart { t with irq := ts } = t := by
  change ({ t with irq := [], ret := .nothing } : State) = t
  rw [← hirq, ← hret]

/-- Where a run was cut, it goes on as it would have gone on. -/
theorem irqRun_irqRun (n m : Nat) {s : State} (hs : ∀ u ∈ s.irq, irqTask u = true) (hf : (irqRun n s).g.fatal = false) :
    irqRun m (irqRun n s) = irqRun (n + m) s := by
  have hirq : (runTasks n s.irq (irqStart s)).2.irq = [] := (runTasks_keeps_all n s.irq (irqStart s)).irq
  have hret : (runTasks n s.irq (irqStart s)).2.ret = .nothing := runTasks_ret_of_irqTask n (irqStart s) hs
  have hstart : irqStart (irqRun n s) = (runTasks n s.irq (irqStart s)).2 := irqStart_with_irq _ hirq hret
  have hgo : runTasks m (irqRun n s).irq (irqStart (irqRun n s)) = runTasks (n + m) s.irq (irqStart s) := by
    rw [hstart, runTasks_add_of_irqTask n m hs hf]
    rfl
  exact congrArg suspendIrq hgo

/-- Where the dispatcher goes on from in a turn: the run in progress, or its entry. -/
def irqFrom (s : State) : State := if s.irq = [] then enterInterrupt s else s

theorem irqTask_irqFrom {s : State} (hs : Contexts s) : ∀ u ∈ (irqFrom s).irq, irqTask u = true := by
  unfold irqFrom
  split
  · exact (enterInterrupt_contexts hs).irq
  · exact hs.irq

theorem irqFrom_quantum (s : State) (x : Option Nat) : irqFrom { s with quantum := x } = { irqFrom s with quantum := x } := by
  unfold irqFrom
  split <;> rfl

/-- A turn of the interrupt agent that is enabled. -/
theorem irqTurn_enabled {s : State} (hf : s.g.fatal = false) (he : s.irq ≠ [] ∨ irqEnabled s = true) :
    irqTurn s = continueIrq (irqFrom s) := by
  by_cases hirq : s.irq = []
  · simp [irqTurn, irqFrom, hf, hirq, he.resolve_left (not_not_intro hirq)]
  · simp [irqTurn, irqFrom, hf, hirq]

/-- Such a turn, of any length. -/
theorem irqTurn_quantum {s : State} (hf : s.g.fatal = false) (he : s.irq ≠ [] ∨ irqEnabled s = true) (n : Nat) :
    irqTurn { s with quantum := some n } = .next { irqRun n (irqFrom s) with quantum := some n } := by
  rw [irqTurn_enabled (s := { s with quantum := some n }) hf he, irqFrom_quantum, continueIrq_quantum]

/-- A turn that leaves the machine running and the dispatcher in the middle of a run was enabled. -/
theorem enabled_of_irqTurn {s u : State} (h : irqTurn s = .next u) (hirq : u.irq ≠ []) (hf : u.g.fatal = false) :
    s.g.fatal = false ∧ (s.irq ≠ [] ∨ irqEnabled s = true) := by
  unfold irqTurn notEnabled at h
  split at h
  · next hfatal => cases h; exact absurd hfatal (by simpa using hf)
  · next hfatal =>
    refine ⟨by simpa using hfatal, ?_⟩
    split at h
    · split at h
      · next he => exact .inr he
      · cases h; exact .inl hirq
    · next hne => exact .inl (by simpa using hne)

/-- Settles O18: after the cut the dispatcher goes on from where the first turn left it (`irqRun_irqRun`). -/
theorem dispatcherRunMayBeCut : Obligations.DispatcherRunMayBeCut := by
  intro s u v n m hs hu hirq hf hv
  obtain ⟨hsf, hse⟩ := enabled_of_irqTurn hu hirq hf
  have hu' := (irqTurn_quantum (s := s) hsf hse n).symm.trans hu
  have hv' := (irqTurn_quantum (s := s) hsf hse (n + m)).symm.trans hv
  cases hu'
  cases hv'
  have hgo : irqFrom (irqRun n (irqFrom s)) = irqRun n (irqFrom s) := if_neg hirq
  have hcut := irqRun_irqRun n m (irqTask_irqFrom hs) hf
  have hnext := irqTurn_quantum (s := irqRun n (irqFrom s)) hf (.inl hirq) m
  rw [hgo, hcut] at hnext
  exact hnext

end Sys2Proof.Machine
end

section
/-! PROOFS. O22: what the contexts share (20_memory.md R64). `DispatcherWrites` is what a step of the dispatcher can write,
`TakesFromQueue` what a step of the main context can do to what the dispatcher shares with it. -/

namespace Sys2Proof.Machine

/-! ## What the interrupt context writes -/

/-- Of a port's SW only pending_tx_ack differs, and it is not set. -/
def FlagCleared (u w : SwPort) : Prop :=
  ∃ b : Bool, w = { u with pendingTxAck := b } ∧ (b = true → u.pendingTxAck = true)

theorem FlagCleared.refl (u : SwPort) : FlagCleared u u := ⟨u.pendingTxAck, rfl, id⟩

theorem FlagCleared.clear (u : SwPort) : FlagCleared u { u with pendingTxAck := false } := ⟨false, rfl, nofun⟩

theorem FlagCleared.trans {u w x : SwPort} : FlagCleared u w → FlagCleared w x → FlagCleared u x := by
  rintro ⟨b, rfl, hb⟩ ⟨c, rfl, hc⟩
  exact ⟨c, rfl, fun h => hb (hc h)⟩

/-- A FIFO is as it was, or a reset has emptied it (42_register_ops.md R138). -/
def KeptOrEmptied (c d : List Byte) : Prop := d = c ∨ d = []

theorem KeptOrEmptied.trans {c d e : List Byte} (h : KeptOrEmptied c d) (h' : KeptOrEmptied d e) : KeptOrEmptied c e :=
  h'.elim (fun hd => hd ▸ h) .inr

/-- Of a port's HW only enables, pending bits and what a FIFO reset empties differ. -/
structure ServiceWrites (h k : HwPort) : Prop where
  regs : k = { h with
    ie := k.ie, pend := k.pend, epcFifo := k.epcFifo, inFifo := k.inFifo, inFlight := k.inFlight, outFifo := k.outFifo,
    outPrimed := k.outPrimed }
  epc : KeptOrEmptied h.epcFifo k.epcFifo
  inp : KeptOrEmptied h.inFifo k.inFifo
  out : KeptOrEmptied h.outFifo k.outFifo

theorem ServiceWrites.refl (h : HwPort) : ServiceWrites h h := ⟨rfl, .inl rfl, .inl rfl, .inl rfl⟩

theorem ServiceWrites.trans {h k l : HwPort} (hk : ServiceWrites h k) (kl : ServiceWrites k l) : ServiceWrites h l where
  regs := kl.regs.trans (by rw [hk.regs])
  epc := hk.epc.trans kl.epc
  inp := hk.inp.trans kl.inp
  out := hk.out.trans kl.out

theorem ServiceWrites.bits (h : HwPort) (ie pend : SrcBits) : ServiceWrites h { h with ie := ie, pend := pend } :=
  ⟨rfl, .inl rfl, .inl rfl, .inl rfl⟩

/-- What the interrupt context can do: append to the queue, clear pending_tx_ack, and write `ServiceWrites`. -/
structure DispatcherWrites (s t : State) : Prop where
  evq : s.g.evq <+: t.g.evq
  main : t.main = s.main
  sw : ∀ p, FlagCleared (swOf s p) (swOf t p)
  hw : ∀ p, ServiceWrites (hwOf s p) (hwOf t p)

namespace DispatcherWrites

theorem refl (s : State) : DispatcherWrites s s := ⟨List.prefix_refl _, rfl, fun _ => .refl _, fun _ => .refl _⟩

theorem trans {s t u : State} (h : DispatcherWrites s t) (h' : DispatcherWrites t u) : DispatcherWrites s u where
  evq := h.evq.trans h'.evq
  main := h'.main.trans h.main
  sw p := (h.sw p).trans (h'.sw p)
  hw p := (h.hw p).trans (h'.hw p)

theorem setRet (r : Ret) (s : State) : DispatcherWrites s (setRet r s) :=
  ⟨List.prefix_refl _, rfl, fun _ => .refl _, fun _ => .refl _⟩

theorem updHw {p : Port} {f : HwPort → HwPort} {s : State} (hf : ServiceWrites (hwOf s p) (f (hwOf s p))) :
    DispatcherWrites s (updHw p f s) where
  evq := List.prefix_refl _
  main := rfl
  sw _ := .refl _
  hw q := by
    rw [hwOf_updHw]
    split
    · next hq => rw [hq.1]; exact hf
    · exact .refl _

theorem updSw {p : Port} {f : SwPort → SwPort} {s : State} (hf : FlagCleared (swOf s p) (f (swOf s p))) :
    DispatcherWrites s (updSw p f s) where
  evq := List.prefix_refl _
  main := rfl
  sw q := by
    rw [swOf_updSw]
    split
    · next hq => rw [hq.1]; exact hf
    · exact .refl _
  hw _ := .refl _

theorem observe (o : Obs) (s : State) : DispatcherWrites s (observe o s) :=
  ⟨List.prefix_refl _, rfl, fun _ => .refl _, fun _ => .refl _⟩

end DispatcherWrites

theorem serviceWrites_resetFifoRegs (g : FifoGroup) (h : HwPort) : ServiceWrites h (resetFifoRegs g h) := by
  cases g with
  | epc => exact ⟨rfl, .inr rfl, .inl rfl, .inl rfl⟩
  | inp => exact ⟨rfl, .inl rfl, .inr rfl, .inl rfl⟩
  | out => exact ⟨rfl, .inl rfl, .inl rfl, .inr rfl⟩

theorem dispatcherWrites_opEvqPush (ev : Event) (s : State) : DispatcherWrites s (opEvqPush ev s) where
  evq := by
    rw [g_opEvqPush]
    split
    · exact List.prefix_refl _
    · exact List.prefix_append _ _
  main := main_opEvqPush ev s
  sw p := swOf_opEvqPush ev s p ▸ .refl _
  hw p := hwOf_opEvqPush ev s p ▸ .refl _

theorem dispatcherWrites_opEnableInterrupt (p : Port) (src : Source) (s : State) :
    DispatcherWrites s (opEnableInterrupt p src s) := .updHw (.bits ..)

theorem dispatcherWrites_opDisableInterrupt (p : Port) (src : Source) (s : State) :
    DispatcherWrites s (opDisableInterrupt p src s) := .updHw (.bits ..)

theorem dispatcherWrites_opClearPending (p : Port) (src : Source) (s : State) :
    DispatcherWrites s (opClearPending p src s) := .updHw (.bits ..)

theorem dispatcherWrites_opResetFifo (p : Port) (g : FifoGroup) (s : State) : DispatcherWrites s (opResetFifo p g s) :=
  (DispatcherWrites.updHw (serviceWrites_resetFifoRegs g _)).trans (.observe ..)

theorem dispatcherWrites_clearFlag (p : Port) (s : State) : DispatcherWrites s (swWrite p (.pendingTxAck false) s) :=
  .updSw (.clear _)

/-- The four register operations that the interrupt context performs (R64). -/
theorem dispatcherWrites_callStep {p : Port} {o : PortOp} (s : State) (ho : irqTask (.call p o) = true) :
    DispatcherWrites s (callStep p o s).state := by
  cases o <;> simp only [irqTask, Bool.false_eq_true] at ho
  case enableInterrupt src => exact dispatcherWrites_opEnableInterrupt p src s
  case disableInterrupt src => exact dispatcherWrites_opDisableInterrupt p src s
  case clearPending src => exact dispatcherWrites_opClearPending p src s
  case resetFifo g => exact dispatcherWrites_opResetFifo p g s

theorem taskStep_dispatcherWrites {u : Task} (s : State) (hu : irqTask u = true) :
    DispatcherWrites s (taskStep u s).state := by
  cases u <;> simp only [irqTask, Bool.false_eq_true] at hu
  case call p o => exact dispatcherWrites_callStep s hu
  case sw p w =>
    cases w <;> simp only [Bool.false_eq_true, Bool.not_eq_true'] at hu
    case pendingTxAck b => subst hu; exact dispatcherWrites_clearFlag p s
  case evqPush ev => exact dispatcherWrites_opEvqPush ev s
  all_goals exact .refl s

theorem runTasks_dispatcherWrites {ts : List Task} (n : Nat) (s : State) (h : ∀ u ∈ ts, irqTask u = true) :
    DispatcherWrites s (runTasks n ts s).2 :=
  (runTasks_induct (P := DispatcherWrites s) (Q := fun u => irqTask u = true)
    (fun _ t hu ht => ⟨taskStep_irqTask t hu, ht.trans (taskStep_dispatcherWrites t hu)⟩) n ts s h (.refl s)).2

theorem startIrq_dispatcherWrites {ts : List Task} {s t : State} (hts : ∀ u ∈ ts, irqTask u = true)
    (h : startIrq ts s = .next t) : DispatcherWrites s t := by
  rcases startIrq_next h with rfl | rfl
  · exact .setRet ..
  · have hrun := runTasks_dispatcherWrites (turnLength s) (setRet .nothing s) hts
    exact ⟨hrun.evq, hrun.main, hrun.sw, hrun.hw⟩

theorem continueIrq_dispatcherWrites {s t : State} (hs : ∀ u ∈ s.irq, irqTask u = true) (h : continueIrq s = .next t) :
    DispatcherWrites s t := by
  cases continueIrq_next h
  have hrun := runTasks_dispatcherWrites (turnLength s) (irqStart s) hs
  exact ⟨hrun.evq, hrun.main, hrun.sw, hrun.hw⟩

theorem irqTurn_dispatcherWrites {s t : State} (hs : Contexts s) (h : irqTurn s = .next t) : DispatcherWrites s t := by
  rcases irqTurn_next h with rfl | ⟨u, rfl | rfl, hu⟩
  · exact .setRet ..
  · exact continueIrq_dispatcherWrites hs.irq hu
  · have hrun := continueIrq_dispatcherWrites (enterInterrupt_contexts hs).irq hu
    exact ⟨hrun.evq, hrun.main, hrun.sw, hrun.hw⟩

theorem irqAtomic_push_dispatcherWrites {ev : Event} {s t : State} (h : irqAtomic (opEvqPush ev) s = .next t) :
    DispatcherWrites s t := by
  rcases irqAtomic_next h with rfl | rfl
  · exact .setRet ..
  · exact (dispatcherWrites_opEvqPush ev s).trans (.setRet ..)

theorem Performs.interrupt_dispatcherWrites {op : Option Port} {f : State → Answer} (hf : Performs op .interrupt f)
    {s t : State} (hs : Contexts s) (h : f s = .next t) : DispatcherWrites s t := by
  cases hf
  case handler p src => exact startIrq_dispatcherWrites (by simp [irqTask]) (onPort_next h).2
  case unknown extra => exact startIrq_dispatcherWrites (by simp [irqTask]) h
  case entry => exact irqTurn_dispatcherWrites hs h
  case pushOn p ev _ => exact irqAtomic_push_dispatcherWrites (onPort_next h).2
  case push ev _ => exact irqAtomic_push_dispatcherWrites h

/-! ## What the main context does to what is shared -/

/-- The main context leaves the latch and the interrupt context's work, and only takes from the queue. -/
structure TakesFromQueue (s t : State) : Prop where
  fatal : t.g.fatal = s.g.fatal
  irq : t.irq = s.irq
  evq : ∃ n : Nat, t.g.evq = s.g.evq.drop n

namespace TakesFromQueue

theorem refl (s : State) : TakesFromQueue s s := ⟨rfl, rfl, 0, rfl⟩

theorem trans {s t u : State} (h : TakesFromQueue s t) (h' : TakesFromQueue t u) : TakesFromQueue s u where
  fatal := h'.fatal.trans h.fatal
  irq := h'.irq.trans h.irq
  evq := by
    obtain ⟨n, hn⟩ := h.evq
    obtain ⟨m, hm⟩ := h'.evq
    exact ⟨n + m, by rw [hm, hn, List.drop_drop]⟩

theorem ofTouches {p : Port} {s t : State} (h : Touches p s t) : TakesFromQueue s t := ⟨h.fatal, h.irq, 0, h.evq⟩

theorem setRet (r : Ret) (s : State) : TakesFromQueue s (setRet r s) := ⟨rfl, rfl, 0, rfl⟩

theorem opEvqPop (s : State) : TakesFromQueue s (opEvqPop s) := ⟨rfl, rfl, 1, List.drop_one.symm⟩

end TakesFromQueue

theorem taskStep_takesFromQueue {u : Task} (s : State) (hu : mainTask u = true) : TakesFromQueue s (taskStep u s).state := by
  cases hp : taskPort u with
  | some p => exact .ofTouches (taskStep_touches s hp).1
  | none =>
    cases u <;> simp only [taskPort, mainTask, reduceCtorEq, Bool.false_eq_true] at hp hu
    case mainPop => exact .opEvqPop s
    case logUnknownInterrupt => exact ⟨rfl, rfl, 0, rfl⟩
    case logErrorEvent => exact ⟨rfl, rfl, 0, rfl⟩

theorem runTasks_takesFromQueue {ts : List Task} (n : Nat) (s : State) (h : ∀ u ∈ ts, mainTask u = true) :
    TakesFromQueue s (runTasks n ts s).2 :=
  (runTasks_induct (P := TakesFromQueue s) (Q := fun u => mainTask u = true)
    (fun _ t hu ht => ⟨taskStep_mainTask t hu, ht.trans (taskStep_takesFromQueue t hu)⟩) n ts s h (.refl s)).2

theorem mainAtomic_takesFromQueue {r : State → Ret} {f : State → State} {s t : State} (hf : TakesFromQueue s (f s))
    (h : mainAtomic r f s = .next t) : TakesFromQueue s t := by
  rcases mainAtomic_next h with rfl | rfl
  · exact .setRet ..
  · exact hf.trans (.setRet ..)

theorem startMain_takesFromQueue {ts : List Task} {s t : State} (hts : ∀ u ∈ ts, mainTask u = true)
    (h : startMain ts s = .next t) : TakesFromQueue s t := by
  rcases startMain_next h with rfl | rfl
  · exact .setRet ..
  · have hrun := runTasks_takesFromQueue (turnLength s) (setRet .nothing s) hts
    exact ⟨hrun.fatal, hrun.irq, hrun.evq⟩

theorem mainTurn_takesFromQueue {s t : State} (hs : Contexts s) (h : mainTurn s = .next t) : TakesFromQueue s t := by
  rcases mainTurn_next h with rfl | rfl
  · exact .setRet ..
  · have hrun := runTasks_takesFromQueue (turnLength s) (mainStart s) (mainTask_mainWork hs.main)
    exact ⟨hrun.fatal, hrun.irq, hrun.evq⟩

theorem Performs.main_takesFromQueue {op : Option Port} {f : State → Answer} (hf : Performs op .main f) {s t : State}
    (hs : Contexts s) (h : f s = .next t) : TakesFromQueue s t := by
  cases hf
  case operation p o r => exact mainAtomic_takesFromQueue (.ofTouches (touches_callStep p o s).1) (onPort_next h).2
  case connect p sp => exact mainAtomic_takesFromQueue (.ofTouches (touches_opConnect p sp s)) (onPort_next h).2
  case turn p ts hts => exact startMain_takesFromQueue (mainTask_of_onPort hts) (onPort_next h).2
  case pop => exact mainAtomic_takesFromQueue (.opEvqPop s) h
  case mainStep => exact mainTurn_takesFromQueue hs h

/-- Settles O22: `DispatcherWrites` for the interrupt context, `TakesFromQueue` for the main context. -/
theorem contextsShareQueueAndFlag : Obligations.ContextsShareQueueAndFlag := by
  intro i s t hs ht
  have hperf := exec_performs i
  refine ⟨fun hag => ?_, fun hag => ?_⟩
  · rw [hag] at hperf
    have h := hperf.interrupt_dispatcherWrites hs ht
    exact ⟨h.evq, h.main, fun p => ⟨h.sw p, (h.hw p).regs, (h.hw p).epc, (h.hw p).inp, (h.hw p).out⟩⟩
  · rw [hag] at hperf
    have h := hperf.main_takesFromQueue hs ht
    exact ⟨h.fatal, h.irq, h.evq⟩

end Sys2Proof.Machine
end

section
/-! PROOFS. O3: a packet lies in the row it is read as, and all rows it lies in name one handler (30_encoding.md R87, R99). A
mask over the packet word tests each field by itself (`packetWord_and_eq_iff`): the type, and bits of the request byte and of the
value (`meetsRow_iff`). The first two decide the handler. -/

namespace Sys2Proof.Machine

/-! ## The fields of a packet word -/

/-- The fields of a word `P` (30_encoding.md R87); the inverse of `packetWord`. -/
def wordFields (w : BitVec 64) : SetupPacket :=
  ⟨w.extractLsb' 0 8, w.extractLsb' 8 8, w.extractLsb' 16 16, w.extractLsb' 32 16, w.extractLsb' 48 16⟩

theorem packetWord_wordFields (w : BitVec 64) : packetWord (wordFields w) = w := by
  have join (start hi lo : Nat) : w.extractLsb' (start + lo) hi ++ w.extractLsb' start lo = w.extractLsb' start (hi + lo) :=
    BitVec.extractLsb'_append_extractLsb'_eq_extractLsb' rfl
  simp only [packetWord, wordFields]
  rw [join 32 16 16, join 16 32 16, join 8 48 8, join 0 56 8]
  exact BitVec.extractLsb'_eq_self

theorem wordFields_packetWord (k : SetupPacket) : wordFields (packetWord k) = k := by
  have skip {n m : Nat} {hi : BitVec n} {lo : BitVec m} {start len : Nat} (h : m ≤ start) :=
    BitVec.extractLsb'_append_eq_of_le (xhi := hi) (xlo := lo) (len := len) h
  have hrequestType : (packetWord k).extractLsb' 0 8 = k.requestType := BitVec.extractLsb'_append_eq_right
  have hrequest : (packetWord k).extractLsb' 8 8 = k.request :=
    (skip (by decide)).trans BitVec.extractLsb'_append_eq_right
  have hvalue : (packetWord k).extractLsb' 16 16 = k.value :=
    (skip (by decide)).trans ((skip (by decide)).trans BitVec.extractLsb'_append_eq_right)
  have hindex : (packetWord k).extractLsb' 32 16 = k.index :=
    (skip (by decide)).trans ((skip (by decide)).trans ((skip (by decide)).trans BitVec.extractLsb'_append_eq_right))
  have hlength : (packetWord k).extractLsb' 48 16 = k.length :=
    (skip (by decide)).trans ((skip (by decide)).trans ((skip (by decide)).trans BitVec.extractLsb'_append_eq_left))
  rw [wordFields, hrequestType, hrequest, hvalue, hindex, hlength]

/-- A packet's word is tested against a mask and a match value field by field. -/
theorem packetWord_and_eq_iff (k : SetupPacket) (m p : BitVec 64) :
    packetWord k &&& m = p ↔
      k.requestType &&& (wordFields m).requestType = (wordFields p).requestType ∧
      k.request &&& (wordFields m).request = (wordFields p).request ∧
      k.value &&& (wordFields m).value = (wordFields p).value ∧
      k.index &&& (wordFields m).index = (wordFields p).index ∧
      k.length &&& (wordFields m).length = (wordFields p).length := by
  have hinj : packetWord k &&& m = p ↔ wordFields (packetWord k &&& m) = wordFields p :=
    (Function.LeftInverse.injective packetWord_wordFields).eq_iff.symm
  have hand : wordFields (packetWord k &&& m) = ⟨k.requestType &&& (wordFields m).requestType,
      k.request &&& (wordFields m).request, k.value &&& (wordFields m).value, k.index &&& (wordFields m).index,
      k.length &&& (wordFields m).length⟩ := by
    conv_rhs => rw [← wordFields_packetWord k]
    simp only [wordFields, BitVec.extractLsb'_and]
  rw [hinj, hand, wordFields, SetupPacket.mk.injEq]

/-! ## The two bytes that select a handler -/

/-- Bits 6:5 of the request_type byte for each type (30_encoding.md R83). -/
def typeBits : RequestType → Byte
  | .standard => 0x00#8
  | .classType => 0x20#8
  | .vendor => 0x40#8
  | .reserved => 0x60#8

theorem and_typeMask (rt : Byte) : rt &&& 0x60#8 = typeBits (decType rt) := by
  revert rt
  decide +kernel

theorem and_typeMask_eq_iff {rt : Byte} {t : RequestType} : rt &&& 0x60#8 = typeBits t ↔ decType rt = t := by
  have hinj : Function.Injective typeBits := fun a b => by cases a <;> cases b <;> decide
  rw [and_typeMask, hinj.eq_iff]

/-- The code of a request (30_encoding.md R85). -/
def requestCode : Request → Byte
  | .getStatus => 0x00#8
  | .clearFeature => 0x01#8
  | .setFeature => 0x03#8
  | .setAddress => 0x05#8
  | .getDescriptor => 0x06#8
  | .setDescriptor => 0x07#8
  | .getConfiguration => 0x08#8
  | .setConfiguration => 0x09#8
  | .getInterface => 0x0A#8
  | .setInterface => 0x0B#8
  | .synchronizeFrame => 0x0C#8
  | .reserved code => code
  | .classOrVendor code => code

theorem requestCode_decRequest (rq : Byte) : requestCode (decRequest rq) = rq := by
  unfold decRequest
  split <;> simp only [requestCode] <;> bv_omega

theorem decRequest_classOrVendor {rq : Byte} (h : 13 ≤ rq.toNat) : decRequest rq = .classOrVendor rq := by
  unfold decRequest
  split
  case h_14 => rfl
  all_goals omega

theorem code_of_decRequest_classOrVendor {rq code : Byte} (h : decRequest rq = .classOrVendor code) :
    13 ≤ code.toNat := by
  obtain rfl : code = rq := (congrArg requestCode h).symm.trans (requestCode_decRequest rq)
  revert code
  decide +kernel

theorem code_of_decRequest_reserved {rq code : Byte} (h : decRequest rq = .reserved code) : code = 2#8 ∨ code = 4#8 := by
  obtain rfl : code = rq := (congrArg requestCode h).symm.trans (requestCode_decRequest rq)
  revert code
  decide +kernel

/-- The value of a feature selector (30_encoding.md R89). -/
def featureValue : Feature → Half
  | .endpointHalt => 0x0000#16
  | .deviceRemoteWakeup => 0x0001#16
  | .unknown value => value

theorem featureValue_featureSelect (k : SetupPacket) : featureValue (featureSelect k) = k.value := by
  unfold featureSelect
  split
  · next h => exact h.symm
  · split
    · next h => exact h.symm
    · rfl

theorem and_codeMask (x : Byte) : x &&& 0xFF#8 = x := BitVec.and_allOnes

/-- Under the mask 0xFF00 a value keeps its high byte. -/
theorem and_highMask {v : Half} {n : Nat} (h : (hi8 v).toNat = n) : v &&& 0xFF00#16 = BitVec.ofNat 8 n ++ 0x00#8 := by
  have hv : hi8 v ++ lo8 v = v := le16_lo8_hi8 v
  have hn : hi8 v = BitVec.ofNat 8 n := by rw [← h, BitVec.ofNat_toNat, BitVec.setWidth_eq]
  calc v &&& 0xFF00#16 = (hi8 v ++ lo8 v) &&& (0xFF#8 ++ 0x00#8) := by rw [hv]; rfl
    _ = BitVec.ofNat 8 n ++ 0x00#8 := by rw [BitVec.and_append, and_codeMask, BitVec.and_zero, hn]

/-! ## The rows a packet lies in -/

/-- The word of a packet meets the mask and the match value of a row (30_encoding.md R87). -/
def MeetsRow (k : SetupPacket) (row : RequestRow) : Prop := packetWord k &&& rowMask row = rowPattern row

/-- The fields of a row's mask. -/
def maskFields (row : RequestRow) : SetupPacket := wordFields (rowMask row)

/-- The fields of a row's match value: the packet that has its bits and no other. -/
def patternFields (row : RequestRow) : SetupPacket := wordFields (rowPattern row)

/-- Every row tests the type (R99). -/
theorem requestType_rowFields (row : RequestRow) :
    (maskFields row).requestType = 0x60#8 ∧
    (patternFields row).requestType = typeBits (typeOf (patternFields row)) := by
  cases row <;> exact ⟨rfl, rfl⟩

/-- No row tests the index or the length. -/
theorem untested_rowFields (row : RequestRow) :
    (maskFields row).index = 0#16 ∧ (patternFields row).index = 0#16 ∧
    (maskFields row).length = 0#16 ∧ (patternFields row).length = 0#16 := by
  cases row <;> exact ⟨rfl, rfl, rfl, rfl⟩

/-- What a row tests: the type, and bits of the request byte and of the value. -/
theorem meetsRow_iff {k : SetupPacket} {row : RequestRow} : MeetsRow k row ↔
    typeOf k = typeOf (patternFields row) ∧ k.request &&& (maskFields row).request = (patternFields row).request ∧
    k.value &&& (maskFields row).value = (patternFields row).value := by
  have hfields : MeetsRow k row ↔ k.requestType &&& (maskFields row).requestType = (patternFields row).requestType ∧
      k.request &&& (maskFields row).request = (patternFields row).request ∧
      k.value &&& (maskFields row).value = (patternFields row).value ∧
      k.index &&& (maskFields row).index = (patternFields row).index ∧
      k.length &&& (maskFields row).length = (patternFields row).length :=
    packetWord_and_eq_iff k (rowMask row) (rowPattern row)
  obtain ⟨hmask, hpattern⟩ := requestType_rowFields row
  obtain ⟨hindex, hindex', hlength, hlength'⟩ := untested_rowFields row
  rw [hfields, hmask, hpattern, and_typeMask_eq_iff, hindex, hindex', hlength, hlength', BitVec.and_zero, BitVec.and_zero]
  simp [typeOf]

/-! ## The handler of a row -/

/-- A row's type and bits of the request byte decide the handler: no Standard type, or the whole code, or a block of codes
from 13 on. -/
theorem requestBits_select (row : RequestRow) : typeOf (patternFields row) ≠ .standard ∨
    (maskFields row).request = 0xFF#8 ∨ 13 ≤ (patternFields row).request.toNat := by
  cases row <;> decide

/-- A row names the handler of the packet that its match value is. -/
theorem rowHandler_eq_selectHandler (row : RequestRow) : rowHandler row = selectHandler (patternFields row) := by
  cases row <;> rfl

theorem selectHandler_of_not_standard {k k' : SetupPacket} (ht : typeOf k = typeOf k') (h : typeOf k' ≠ .standard) :
    selectHandler k = selectHandler k' := by
  rw [selectHandler, selectHandler, ht]
  cases ht' : typeOf k'
  case standard => exact absurd ht' h
  all_goals rfl

theorem selectHandler_of_request {k k' : SetupPacket} (ht : typeOf k = typeOf k') (h : k.request = k'.request) :
    selectHandler k = selectHandler k' := by
  have hr : requestOf k = requestOf k' := congrArg decRequest h
  rw [selectHandler, selectHandler, ht, hr]

theorem selectHandler_of_block {k k' : SetupPacket} (ht : typeOf k = typeOf k') (h : 13 ≤ k.request.toNat)
    (h' : 13 ≤ k'.request.toNat) : selectHandler k = selectHandler k' := by
  have hr : requestOf k = .classOrVendor k.request := decRequest_classOrVendor h
  have hr' : requestOf k' = .classOrVendor k'.request := decRequest_classOrVendor h'
  rw [selectHandler, selectHandler, ht, hr, hr']

theorem rowHandler_of_meetsRow {k : SetupPacket} {row : RequestRow} (h : MeetsRow k row) :
    rowHandler row = selectHandler k := by
  obtain ⟨ht, hr, -⟩ := meetsRow_iff.1 h
  rw [rowHandler_eq_selectHandler]
  rcases requestBits_select row with hs | hm | hb
  · exact (selectHandler_of_not_standard ht hs).symm
  · rw [hm] at hr
    exact (selectHandler_of_request ht ((and_codeMask k.request).symm.trans hr)).symm
  · have hle : (k.request &&& (maskFields row).request).toNat ≤ k.request.toNat := Nat.and_le_left
    rw [hr] at hle
    exact (selectHandler_of_block ht (hb.trans hle) hb).symm

/-! ## The row a packet is read as -/

theorem classOrVendorRow_fields (code : Byte) :
    typeOf (patternFields (classOrVendorRow code)) = .standard ∧
    (maskFields (classOrVendorRow code)).value = 0#16 ∧ (patternFields (classOrVendorRow code)).value = 0#16 ∧
    (13 ≤ code.toNat →
      code &&& (maskFields (classOrVendorRow code)).request = (patternFields (classOrVendorRow code)).request) := by
  revert code
  decide +kernel

/-- Each aligned block of codes has the mask and the match value of its row (R99). -/
theorem meetsRow_classOrVendorRow {k : SetupPacket} (ht : typeOf k = .standard) (h : 13 ≤ k.request.toNat) :
    MeetsRow k (classOrVendorRow k.request) := by
  obtain ⟨htype, hmask, hpattern, hrequest⟩ := classOrVendorRow_fields k.request
  refine meetsRow_iff.2 ⟨ht.trans htype.symm, hrequest h, ?_⟩
  rw [hmask, hpattern, BitVec.and_zero]

theorem meetsRow_requestRow_of_standard {k : SetupPacket} (ht : typeOf k = .standard) : MeetsRow k (requestRow k) := by
  have hcode : k.request = requestCode (requestOf k) := (requestCode_decRequest k.request).symm
  have hvalue : k.value = featureValue (featureSelect k) := (featureValue_featureSelect k).symm
  simp only [requestRow, ht]
  cases hr : requestOf k <;> rw [hr] at hcode <;> dsimp only
  case clearFeature | setFeature =>
    cases hf : featureSelect k <;> rw [hf] at hvalue <;> dsimp only
    case endpointHalt | deviceRemoteWakeup =>
      exact meetsRow_iff.2 ⟨ht, by rw [hcode]; rfl, by rw [hvalue]; rfl⟩
    case unknown => exact meetsRow_iff.2 ⟨ht, by rw [hcode]; rfl, BitVec.and_zero⟩
  case getDescriptor =>
    split
    case h_1 h | h_2 h | h_3 h | h_4 h => exact meetsRow_iff.2 ⟨ht, by rw [hcode]; rfl, and_highMask h⟩
    case h_5 => exact meetsRow_iff.2 ⟨ht, by rw [hcode]; rfl, BitVec.and_zero⟩
  case reserved code =>
    rcases code_of_decRequest_reserved hr with rfl | rfl <;>
      exact meetsRow_iff.2 ⟨ht, by rw [hcode]; rfl, BitVec.and_zero⟩
  case classOrVendor code =>
    obtain rfl : k.request = code := hcode
    exact meetsRow_classOrVendorRow ht (code_of_decRequest_classOrVendor hr)
  all_goals exact meetsRow_iff.2 ⟨ht, by rw [hcode]; rfl, BitVec.and_zero⟩

theorem meetsRow_requestRow (k : SetupPacket) : MeetsRow k (requestRow k) := by
  cases ht : typeOf k
  case standard => exact meetsRow_requestRow_of_standard ht
  all_goals
    simp only [requestRow, ht]
    exact meetsRow_iff.2 ⟨ht, BitVec.and_zero, BitVec.and_zero⟩

/-- Settles O3: `meetsRow_requestRow` for the packet's own row, `rowHandler_of_meetsRow` for every row it lies in. -/
theorem requestRowsSelectOneHandler : Obligations.RequestRowsSelectOneHandler := fun k =>
  ⟨meetsRow_requestRow k, fun _ => rowHandler_of_meetsRow⟩

end Sys2Proof.Machine
end

section
/-! PROOFS. O2: sample words (30_encoding.md R80, R87, R96; logs 3, 4, 6, 7). -/

namespace Sys2Proof.Machine

/-- Settles O2: the decoder runs on each word. -/
theorem sampleWordsDecode : Obligations.SampleWordsDecode :=
  ⟨rfl, rfl, rfl, rfl, rfl, rfl, rfl, rfl, rfl, rfl, rfl⟩

end Sys2Proof.Machine
end

section
/-! PROOFS. O8 and O9: the rows of constants (30_encoding.md R82 to R97; 00_scope.md R8; log 5). Each answers the decode function
of its rule (`evalOp`), so each needs that function's value on
the words of its row only. -/

namespace Sys2Proof.Machine

/-! ## The decode functions on their ranges -/

theorem toNat_recipientBits (rt : Byte) : (rt.extractLsb' 0 5).toNat = rt.toNat % 32 := by
  simp

theorem toNat_typeBits (rt : Byte) : (rt.extractLsb' 5 2).toNat = rt.toNat / 32 % 4 := by
  simp [Nat.shiftRight_eq_div_pow]

/-- The recipient is a function of bits 4:0. -/
theorem decRecipient_congr {rt rt' : Byte} (h : rt.toNat % 32 = rt'.toNat % 32) : decRecipient rt = decRecipient rt' := by
  have hbits : rt.extractLsb' 0 5 = rt'.extractLsb' 0 5 := BitVec.eq_of_toNat_eq (by simpa only [toNat_recipientBits] using h)
  rw [decRecipient, decRecipient, hbits]

theorem decRecipient_reserved {rt : Byte} (h : 4 ≤ rt.toNat % 32) : decRecipient rt = .reserved (rt.extractLsb' 0 5) := by
  have hne {n : BitVec 5} (hn : n.toNat < 4) : rt.extractLsb' 0 5 ≠ n := by
    rintro rfl
    rw [toNat_recipientBits] at hn
    omega
  simp only [decRecipient]
  rw [if_neg (hne (by decide)), if_neg (hne (by decide)), if_neg (hne (by decide)), if_neg (hne (by decide))]

/-- The type is a function of bits 6:5. -/
theorem decType_congr {rt rt' : Byte} (h : rt.toNat / 32 % 4 = rt'.toNat / 32 % 4) : decType rt = decType rt' := by
  have hbits : rt.extractLsb' 5 2 = rt'.extractLsb' 5 2 := BitVec.eq_of_toNat_eq (by simpa only [toNat_typeBits] using h)
  rw [decType, decType, hbits]

theorem getLsbD_seven (b : Byte) : b.getLsbD 7 = decide (128 ≤ b.toNat) :=
  (BitVec.msb_eq_getLsbD_last b).symm.trans (BitVec.msb_eq_decide b)

theorem decDirection_eq (rt : Byte) : decDirection rt = if 128 ≤ rt.toNat then .deviceToHost else .hostToDevice := by
  simp only [decDirection, getLsbD_seven, decide_eq_true_eq]

theorem epAddrSplit_eq (ea : Byte) : epAddrSplit ea = (if 128 ≤ ea.toNat then .inp else .out, ea.extractLsb' 0 4) := by
  simp only [epAddrSplit, getLsbD_seven, decide_eq_true_eq]

/-- The lowest set bit selects the handler (R96). -/
theorem pendHandler_ranges (v : BitVec 4) :
    (v.toNat % 2 = 1 → pendHandler v = .busReset) ∧ (v.toNat % 4 = 2 → pendHandler v = .receiveControl) ∧
    (v.toNat % 8 = 4 → pendHandler v = .receivePacket) ∧ (v.toNat = 8 → pendHandler v = .sendComplete) ∧
    (v.toNat = 0 → pendHandler v = .unknown) := by
  revert v
  decide

theorem devAddr_of_le {k : SetupPacket} (h : k.value.toNat ≤ 127) : devAddr k = some (k.value.extractLsb' 0 7) := if_pos h

/-! ## The rows -/

/-- A row of constants answers its value and changes nothing else. -/
theorem evalOp_eq {r r' : Ret} (h : r = r') (s : State) : evalOp r s = .next { s with ret := r' } := by
  rw [h]
  rfl

/-- Settles O8: each row answers the decode function on its word, whose ranges are above. -/
theorem setupByteRows : Obligations.SetupByteRows := by
  refine ⟨fun rt s => ?_, fun s => ⟨?_, fun rq => ?_⟩⟩
  · have recipient {r : Recipient} (h : decRecipient rt = r) := evalOp_eq (congrArg Ret.recipient h) s
    have type {t : RequestType} (h : decType rt = t) := evalOp_eq (congrArg Ret.requestType h) s
    have direction {d : Direction} (h : decDirection rt = d) := evalOp_eq (congrArg Ret.direction h) s
    exact ⟨fun h => recipient (decRecipient_congr (rt' := 0x00) h), fun h => recipient (decRecipient_congr (rt' := 0x01) h),
      fun h => recipient (decRecipient_congr (rt' := 0x02) h), fun h => recipient (decRecipient_congr (rt' := 0x03) h),
      fun h _ => recipient (decRecipient_reserved h), fun h _ => recipient (decRecipient_reserved (by omega)),
      fun h => recipient (decRecipient_reserved (by omega)),
      fun h => type (decType_congr (rt' := 0x00) h), fun h => type (decType_congr (rt' := 0x20) h),
      fun h => type (decType_congr (rt' := 0x40) h), fun h => type (decType_congr (rt' := 0x60) h),
      fun h => direction ((decDirection_eq rt).trans (if_neg (by omega))),
      fun h => direction ((decDirection_eq rt).trans (if_pos h))⟩
  · simp only [List.forall_mem_cons]
    exact ⟨rfl, rfl, rfl, rfl, rfl, rfl, rfl, rfl, rfl, rfl, rfl, rfl, rfl, rfl, List.forall_mem_nil _⟩
  · have request (h : 13 ≤ rq.toNat) := evalOp_eq (congrArg Ret.request (decRequest_classOrVendor h)) s
    exact ⟨fun h _ => request (by omega), fun h _ => request (by omega), fun h _ => request (by omega),
      fun h _ => request (by omega), fun h => request (by omega)⟩

/-- Settles O9: each row answers the function or the table of its rule. -/
theorem otherConstantRows : Obligations.OtherConstantRows := by
  intro s
  have epAddr {ea : Byte} {d : Dir} (h : epAddrSplit ea = (d, ea.extractLsb' 0 4)) :=
    evalOp_eq (congrArg (fun x : Dir × EpNo => Ret.epAddr x.1 x.2) h) s
  refine ⟨rfl, rfl, fun ea h => ?_, fun ea h => ?_, fun v h => evalOp_eq (congrArg Ret.devAddr (devAddr_of_le h)) s,
    fun v => ?_, rfl, rfl, rfl, rfl, rfl, rfl, rfl, rfl, rfl, rfl⟩
  · exact epAddr ((epAddrSplit_eq ea).trans (congrArg (·, _) (if_neg (by omega))))
  · exact epAddr ((epAddrSplit_eq ea).trans (congrArg (·, _) (if_pos h)))
  · obtain ⟨hbus, hcontrol, hpacket, hsend, hnone⟩ := pendHandler_ranges v
    have pend {i : IrqHandler} (h : pendHandler v = i) := evalOp_eq (congrArg Ret.irqHandler h) s
    exact ⟨fun h => pend (hbus h), fun h => pend (hcontrol h), fun h => pend (hpacket h), fun h => pend (hsend h),
      fun h => pend (hnone h)⟩

end Sys2Proof.Machine
end

section
/-! PROOFS. O4, O5, O6 and O7: the decode functions and the SETUP packet codec (41_setup_decode.md R110 to R120). Each
instruction answers the function of its rule (`evalOp_eq`); the sub-field reads of a byte or a half-word are arithmetic. -/

namespace Sys2Proof.Machine

/-! ## The two bytes of a half-word (00_scope.md R10) -/

theorem toNat_le16 (a b : Byte) : (le16 a b).toNat = 256 * b.toNat + a.toNat := by
  rw [le16, BitVec.toNat_append, ← Nat.shiftLeft_add_eq_or_of_lt a.isLt, Nat.shiftLeft_eq]
  omega

theorem toNat_lo8 (w : Half) : (lo8 w).toNat = w.toNat % 256 := by
  simp [lo8]

theorem toNat_hi8 (w : Half) : (hi8 w).toNat = w.toNat / 256 := by
  have hlt : w.toNat / 256 < 256 := by omega
  simp only [hi8, BitVec.extractLsb'_toNat, Nat.shiftRight_eq_div_pow]
  exact Nat.mod_eq_of_lt hlt

theorem lo8_le16 (a b : Byte) : lo8 (le16 a b) = a := BitVec.extractLsb'_append_eq_right

theorem hi8_le16 (a b : Byte) : hi8 (le16 a b) = b := BitVec.extractLsb'_append_eq_left

theorem encSetup_decSetup (b : SetupBytes) : encSetup (decSetup b) = b := by
  simp only [encSetup, decSetup, lo8_le16, hi8_le16]

/-! ## The request_type byte (R110, R111, R112, R116) -/

theorem toNat_directionBit (rt : Byte) : (rt.extractLsb' 7 1).toNat = rt.toNat / 128 := by
  have hlt : rt.toNat / 128 < 2 := by omega
  simp only [BitVec.extractLsb'_toNat, Nat.shiftRight_eq_div_pow]
  exact Nat.mod_eq_of_lt hlt

/-- Bit 7 of the request_type byte for each direction (R112). -/
def directionBits : Direction → Byte
  | .hostToDevice => 0x00#8
  | .deviceToHost => 0x80#8

/-- Bits 4:0 of the request_type byte for each recipient (R110). -/
def recipientBits : Recipient → Byte
  | .device => 0x00#8
  | .interface => 0x01#8
  | .endpoint => 0x02#8
  | .other => 0x03#8
  | .reserved n => n.setWidth 8

theorem and_directionMask (rt : Byte) : rt &&& 0x80#8 = directionBits (decDirection rt) := by
  revert rt
  decide +kernel

theorem and_recipientMask (rt : Byte) : rt &&& 0x1F#8 = recipientBits (decRecipient rt) := by
  revert rt
  decide +kernel

/-- The three decodes of the request_type byte give the byte back: their masks together are the whole byte. -/
theorem fieldBits_requestType (rt : Byte) :
    directionBits (decDirection rt) ||| typeBits (decType rt) ||| recipientBits (decRecipient rt) = rt := by
  rw [← and_directionMask, ← and_typeMask, ← and_recipientMask, ← BitVec.and_or_distrib_left, ← BitVec.and_or_distrib_left]
  exact and_codeMask rt

theorem requestType_ext {rt rt' : Byte} (hd : decDirection rt = decDirection rt') (ht : decType rt = decType rt')
    (hr : decRecipient rt = decRecipient rt') : rt = rt' := by
  rw [← fieldBits_requestType rt, hd, ht, hr, fieldBits_requestType]

/-- Settles O4: the codec by `encSetup_decSetup`, the partition of the byte by the arithmetic of its bits. -/
theorem decodeFunctionLaws : Obligations.DecodeFunctionLaws := by
  refine ⟨fun _ _ => existsUnique_eq, decSetup_encSetup, encSetup_decSetup, fun a b => ⟨toNat_le16 a b, by omega⟩,
    fun rt => ?_, fun _ _ => requestType_ext⟩
  rw [toNat_directionBit, toNat_typeBits, toNat_recipientBits]
  omega

/-! ## Tables of the byte decoders (R110, R111, R113)

A decoder meets a table on every byte when it does on one byte for each entry. -/

theorem decRecipient_of_mem {table : List (Nat × Recipient)}
    (htable : ∀ x ∈ table, decRecipient (BitVec.ofNat 8 x.1) = x.2) {rt : Byte} {r : Recipient}
    (h : (rt.toNat % 32, r) ∈ table) : decRecipient rt = r := by
  have hbits : rt.toNat % 32 = (BitVec.ofNat 8 (rt.toNat % 32)).toNat % 32 := by
    rw [BitVec.toNat_ofNat]
    omega
  have hentry : decRecipient (BitVec.ofNat 8 (rt.toNat % 32)) = r := htable (rt.toNat % 32, r) h
  exact (decRecipient_congr hbits).trans hentry

theorem decType_of_mem {table : List (Nat × RequestType)}
    (htable : ∀ x ∈ table, decType (BitVec.ofNat 8 (32 * x.1)) = x.2) {rt : Byte} {t : RequestType}
    (h : (rt.toNat / 32 % 4, t) ∈ table) : decType rt = t := by
  have hbits : rt.toNat / 32 % 4 = (BitVec.ofNat 8 (32 * (rt.toNat / 32 % 4))).toNat / 32 % 4 := by
    rw [BitVec.toNat_ofNat]
    omega
  have hentry : decType (BitVec.ofNat 8 (32 * (rt.toNat / 32 % 4))) = t := htable (rt.toNat / 32 % 4, t) h
  exact (decType_congr hbits).trans hentry

theorem decRequest_of_mem {table : List (Nat × Request)}
    (htable : ∀ x ∈ table, decRequest (BitVec.ofNat 8 x.1) = x.2) {rq : Byte} {r : Request}
    (h : (rq.toNat, r) ∈ table) : decRequest rq = r := by
  have hentry : decRequest (BitVec.ofNat 8 rq.toNat) = r := htable (rq.toNat, r) h
  rwa [BitVec.ofNat_toNat, BitVec.setWidth_eq] at hentry

/-- Settles O5: each decoder's table on one byte for each entry, its other values by the ranges of `decRecipient_reserved`,
`decDirection_eq` and `decRequest_classOrVendor`. -/
theorem byteDecoders : Obligations.ByteDecoders := by
  intro s
  exact ⟨fun _ _ h => evalOp_eq (congrArg Ret.recipient (decRecipient_of_mem (by decide) h)) s,
    fun rt h => ⟨_, toNat_recipientBits rt, evalOp_eq (congrArg Ret.recipient (decRecipient_reserved h)) s⟩,
    fun _ _ h => evalOp_eq (congrArg Ret.requestType (decType_of_mem (by decide) h)) s,
    fun rt => evalOp_eq (congrArg Ret.direction (decDirection_eq rt)) s,
    fun _ _ h => evalOp_eq (congrArg Ret.request (decRequest_of_mem (by decide) h)) s,
    fun _ h => evalOp_eq (congrArg Ret.request (decRequest_classOrVendor h)) s,
    fun _ _ => (Function.LeftInverse.injective requestCode_decRequest).eq_iff.1⟩

/-! ## The SETUP packet and its sub-fields (R114, R115, R117 to R120) -/

/-- Settles O6: every 16-bit field is `le16` of its two bytes, and every byte pair `lo8` and `hi8` of its field. -/
theorem setupPacketCodec : Obligations.SetupPacketCodec := by
  intro s
  exact ⟨fun b => ⟨decSetup b, rfl, rfl, rfl, toNat_le16 _ _, toNat_le16 _ _, toNat_le16 _ _, rfl, rfl, rfl, rfl⟩,
    fun k => ⟨encSetup k, rfl, rfl, rfl, toNat_lo8 _, toNat_hi8 _, toNat_lo8 _, toNat_hi8 _, toNat_lo8 _, toNat_hi8 _⟩⟩

theorem featureSelect_eq (k : SetupPacket) : featureSelect k =
    if k.value.toNat = 0 then .endpointHalt else if k.value.toNat = 1 then .deviceRemoteWakeup else .unknown k.value := by
  simp only [featureSelect, BitVec.toNat_eq]
  rfl

theorem devAddr_of_lt {k : SetupPacket} (h : 127 < k.value.toNat) : devAddr k = none := if_neg (by omega)

/-- Settles O7: each selector is arithmetic on the value or on the endpoint address. -/
theorem subfieldSelectors : Obligations.SubfieldSelectors := by
  intro s
  refine ⟨fun k => ⟨hi8 k.value, lo8 k.value, rfl, toNat_hi8 _, toNat_lo8 _⟩,
    fun k => evalOp_eq (congrArg Ret.feature (featureSelect_eq k)) s,
    fun ea => ⟨ea.extractLsb' 0 4, by simp, ?_⟩,
    fun k h => ⟨k.value.extractLsb' 0 7, ?_, evalOp_eq (congrArg Ret.devAddr (devAddr_of_le h)) s⟩,
    fun _ h => evalOp_eq (congrArg Ret.devAddr (devAddr_of_lt h)) s⟩
  · exact evalOp_eq (congrArg (fun x : Dir × EpNo => Ret.epAddr x.1 x.2) (epAddrSplit_eq ea)) s
  · have hlt : k.value.toNat < 2 ^ 7 := by omega
    simpa using hlt

end Sys2Proof.Machine
end

section
/-! SUPPORT. The shape of a register-layer operation (42_register_ops.md R130): one atomic write to `HW[p]` and its entries in
the trace, `writeHw`, composed by `writeHw_writeHw` and read back by `hwOf_writeHw` and `hwStep_writeHw`; and what an operation
of that shape, or a query, answers whenever the main context may step. -/

namespace Sys2Proof.Machine

/-- `HW[p]` rewritten by `f`, with `l` added to the trace. -/
def writeHw (p : Port) (f : HwPort → HwPort) (l : List Obs) (s : State) : State :=
  { updHw p f s with g := { s.g with obs := s.g.obs ++ l } }

theorem updHw_eq_writeHw (p : Port) (f : HwPort → HwPort) (s : State) : updHw p f s = writeHw p f [] s := by
  simp [writeHw, updHw]

theorem observe_updHw_eq_writeHw (p : Port) (f : HwPort → HwPort) (o : Obs) (s : State) :
    observe o (updHw p f s) = writeHw p f [o] s := rfl

theorem writeHw_id (p : Port) (s : State) : writeHw p id [] s = s := by
  rw [← updHw_eq_writeHw, updHw_id rfl]

theorem writeHw_writeHw (p : Port) (f f' : HwPort → HwPort) (l l' : List Obs) (s : State) :
    writeHw p f' l' (writeHw p f l s) = writeHw p (f' ∘ f) (l ++ l') s := by
  have hhw : (updHw p f' (updHw p f s)).hw = (updHw p (f' ∘ f) s).hw := congrArg State.hw (updHw_updHw p f' f s)
  change { updHw p f' (updHw p f s) with g := { s.g with obs := s.g.obs ++ l ++ l' } } = _
  simp only [writeHw, hhw, List.append_assoc]
  rfl

theorem hwOf_writeHw {p : Port} {s : State} (hp : portExists p s = true) (f : HwPort → HwPort) (l : List Obs) :
    hwOf (writeHw p f l s) p = f (hwOf s p) :=
  hwOf_updHw_self (portExists_iff.1 hp).1

theorem hwStep_writeHw (p : Port) (f : HwPort → HwPort) (l : List Obs) (r : Ret) (s : State) :
    HwStep p s (setRet r (writeHw p f l s)) l r where
  ports q hq := (Touches.updHw p f s).hw q hq
  rest := rfl

/-- An operation of the main context that writes its port in one step. -/
theorem Ready.writes {p : Port} {s : State} (hs : Ready p s) {op : State → State} {r : State → Ret} {f : HwPort → HwPort}
    {l : List Obs} (hop : op s = writeHw p f l s) :
    ∃ t : State, onPort p (mainAtomic r op) s = .next t ∧ HwStep p s t l (r s) ∧ hwOf t p = f (hwOf s p) := by
  refine ⟨_, (onPort_exists hs.1).trans (mainAtomic_enabled hs.2), ?_⟩
  rw [hop]
  exact ⟨hwStep_writeHw p f l (r s) s, hwOf_writeHw hs.1 f l⟩

/-- A query of the main context returns its value and changes nothing. -/
theorem Ready.reads {p : Port} {s : State} (hs : Ready p s) {r : State → Ret} {v : Ret} (hr : r s = v) :
    onPort p (mainAtomic r id) s = .next { s with ret := v } := by
  rw [onPort_exists hs.1, mainAtomic_enabled hs.2, hr]
  rfl

/-- A move of the bus agent that writes its port, under its guard. -/
theorem busMove_writes {p : Port} {s : State} (hp : portExists p s = true) {guard : State → Bool} (hg : guard s = true)
    {op : State → State} {f : HwPort → HwPort} {l : List Obs} (hop : op s = writeHw p f l s) :
    ∃ t : State, onPort p (busMove guard op) s = .next t ∧ HwStep p s t l .nothing ∧ hwOf t p = f (hwOf s p) := by
  refine ⟨_, (onPort_exists hp).trans (busMove_enabled hg), ?_⟩
  rw [hop]
  exact ⟨hwStep_writeHw p f l .nothing s, hwOf_writeHw hp f l⟩

/-! ## What a write of one per-endpoint bit leaves in the registers -/

theorem setStallBit_frame (h : HwPort) (d : Dir) (e : EpNo) (v : Bool) :
    setStallBit h d e v =
      { h with stallIn := (setStallBit h d e v).stallIn, stallOut := (setStallBit h d e v).stallOut } := by
  cases d <;> rfl

theorem setPidBit_frame (h : HwPort) (d : Dir) (e : EpNo) (v : Bool) :
    setPidBit h d e v = { h with pidIn := (setPidBit h d e v).pidIn, pidOut := (setPidBit h d e v).pidOut } := by
  cases d <;> rfl

theorem not_isEmpty_eq_decide (l : List Byte) : (!l.isEmpty) = decide (0 < l.length) := by
  cases l <;> simp

end Sys2Proof.Machine
end

section
/-! PROOFS. O24, O25 and O27 to O30: the register-layer operations (42_register_ops.md R131 to R157). Each is one write of
`HW[p]` (`Ready.writes`) or a query (`Ready.reads`); what is left is to read the bit files back. -/

namespace Sys2Proof.Machine

/-! ## Interrupt bits (R131 to R134) -/

/-- A write of one source's bit: that bit, and no other. -/
theorem srcBit_written {b b' : SrcBits} {src : Source} {v : Bool} (h : b' = setSrcBit b src v) :
    srcBit b' src = v ∧ ∀ o : Source, o ≠ src → srcBit b' o = srcBit b o := by
  subst h
  exact ⟨by simp, fun o ho => by simp [ho]⟩

theorem portLine_of_srcBit {h : HwPort} {src : Source} (hie : srcBit h.ie src = true) (hpend : srcBit h.pend src = true) :
    portLine h = true := by
  cases src <;> simp only [srcBit] at hie hpend <;> simp [portLine, hie, hpend]

/-- A port whose line is up is there, and raises the interrupt line (10_state.md R43). -/
theorem irqLine_of_portLine {p : Port} {s : State} (h : portLine (hwOf s p) = true) : irqLine s = true := by
  have hp : p < s.hw.length := by
    by_contra hp
    rw [hwOf_absent (Nat.le_of_not_lt hp)] at h
    simp [portLine, HwPort.reset, SrcBits.zero] at h
  have hmem : hwOf s p = s.hw[p] := by simp [hwOf, hp]
  exact List.any_eq_true.2 ⟨s.hw[p], List.getElem_mem hp, hmem ▸ h⟩

/-- Settles O24: each writes one bit of a file of source bits (`srcBit_written`); a source that is enabled and pending
raises the line. -/
theorem interruptBitOperations : Obligations.InterruptBitOperations := by
  intro p src s hs
  refine ⟨?enable, ?disable, ?clear, hs.reads rfl⟩
  case enable =>
    obtain ⟨t, ht, hstep, hhw⟩ := hs.writes (op := opEnableInterrupt p src) (r := fun _ => .nothing) (updHw_eq_writeHw ..)
    obtain ⟨hset, hothers⟩ := srcBit_written (congrArg HwPort.ie hhw)
    refine ⟨t, ht, hstep, by rw [hhw], hset, hothers, fun hpend => ?_⟩
    have hpend' : srcBit (hwOf t p).pend src = true := by rw [hhw]; exact hpend
    exact irqLine_of_portLine (portLine_of_srcBit hset hpend')
  case disable =>
    obtain ⟨t, ht, hstep, hhw⟩ := hs.writes (op := opDisableInterrupt p src) (r := fun _ => .nothing) (updHw_eq_writeHw ..)
    exact ⟨t, ht, hstep, by rw [hhw], srcBit_written (congrArg HwPort.ie hhw)⟩
  case clear =>
    obtain ⟨t, ht, hstep, hhw⟩ := hs.writes (op := opClearPending p src) (r := fun _ => .nothing) (updHw_eq_writeHw ..)
    exact ⟨t, ht, hstep, by rw [hhw], srcBit_written (congrArg HwPort.pend hhw)⟩

/-! ## The line, the speed, the addresses, FIFO resets (R135, R137 to R139) -/

/-- Settles O25: CONNECT is one write, its speed codes are those of R8; CTL_SPEED is a query. -/
theorem connectAndSpeed : Obligations.ConnectAndSpeed := by
  intro p s hs
  refine ⟨fun sp c hc => ?_, hs.reads rfl⟩
  have hcode : ∀ x ∈ [(Speed.high, 0), (.full, 1), (.low, 2), (.superSpeed, 3)], speedCode x.1 = x.2 := by decide
  obtain rfl : speedCode sp = c := hcode (sp, c) hc
  exact hs.writes rfl

/-- Settles O27: each is one write; the guards after SET_ADDRESS compare with the address just written. -/
theorem fifoResetAndAddress : Obligations.FifoResetAndAddress := by
  refine ⟨fun p s hs => ⟨hs.writes rfl, hs.writes rfl, ?_⟩, fun p a s hs => ?_⟩
  · obtain ⟨t, ht, hstep, hhw⟩ := hs.writes (op := opResetFifo p .out) (r := fun _ => .nothing) rfl
    exact ⟨t, ht, hstep, by rw [hhw]; rfl, fun e => by rw [hhw]; exact epBit_zero e⟩
  · obtain ⟨t, ht, hstep, hhw⟩ := hs.writes (op := opSetAddress p a) (r := fun _ => .nothing) rfl
    refine ⟨t, ht, hstep, hhw, fun a' => by simp [hostSetupGuard, hhw], ?_⟩
    rintro a' d e (h | h | h)
    · simp only [hostOutGuard, hhw, Bool.and_eq_true, decide_eq_true_eq] at h
      exact h.1.1.2
    · simp only [hostInGuard, hhw, Bool.and_eq_true, decide_eq_true_eq] at h
      exact h.1.1.1.2
    · simp only [hostSeesStallGuard, hhw, Bool.and_eq_true, decide_eq_true_eq] at h
      cases d <;> exact h.1.2

/-! ## Stall and toggle bits (R140 to R144, R156) -/

/-- Settles O28: the four stall operations are one write of one bit each, by direction and value; a set bit (an endpoint below
NEP) closes the guard of the host's exchange. -/
theorem stallAndHaltBits : Obligations.StallAndHaltBits := by
  refine ⟨fun p e s hs => ⟨?_, fun d => hs.reads rfl⟩, fun p ea s hs => ?_⟩
  · have hwrite : ∀ x ∈ [(Instr.stallIn p e, Dir.inp, true), (.stallOut p e, .out, true), (.unstallIn p e, .inp, false),
        (.unstallOut p e, .out, false)], ∃ t : State, exec x.1 s = .next t ∧
          HwStep p s t [if x.2.2 = true then .stallSet p x.2.1 e else .stallClr p x.2.1 e] .nothing ∧
          hwOf t p = setStallBit (hwOf s p) x.2.1 e (epWrite s.cfg e x.2.2) := by
      rintro x (_ | ⟨_, _ | ⟨_, _ | ⟨_, _ | ⟨_, ⟨⟩⟩⟩⟩⟩)
      · exact hs.writes (op := opStall p .inp e) rfl
      · exact hs.writes (op := opStall p .out e) rfl
      · exact hs.writes (op := opUnstall p .inp e) rfl
      · exact hs.writes (op := opUnstall p .out e) rfl
    rintro ⟨i, d, v⟩ hx
    obtain ⟨t, ht, hstep, hhw⟩ := hwrite _ hx
    have hbit (d' : Dir) (e' : EpNo) : stallBit (hwOf t p) d' e' =
        if d' = d ∧ e' = e then epWrite s.cfg e v else stallBit (hwOf s p) d' e' := by
      rw [hhw, stallBit_setStallBit]
    refine ⟨t, ht, hstep, by rw [hhw]; exact setStallBit_frame .., hbit, ?_⟩
    rintro (rfl : v = true) hnep a
    have hset : stallBit (hwOf t p) d e = true := by rw [hbit, if_pos ⟨rfl, rfl⟩, epWrite_of_lt _ hnep]
    constructor
    · rintro (rfl : d = .inp)
      exact hostInGuard_eq_false_iff.2 (.inr (.inr (.inr (.inr hset))))
    · rintro (rfl : d = .out)
      exact hostOutGuard_eq_false_iff.2 (.inr (.inr (.inr hset)))
  · obtain ⟨t, ht, hstep, hhw⟩ := hs.writes (op := opClearHalt p ea) (r := fun _ => .nothing) rfl
    refine ⟨t, (epAddrSplit ea).1, (epAddrSplit ea).2, ?_, ?_, ht, hstep, by rw [hhw]; exact setPidBit_frame ..,
      fun d e => by rw [hhw, pidBit_setPidBit]⟩
    · rw [epAddrSplit_eq]
      simp
    · rw [epAddrSplit_eq]
      simp

/-! ## Reads of the OUT and the control FIFO (R145 to R150) -/

theorem popByte_nil {p : Port} {f : ReadFifo} {s : State} (h : fifoOf (hwOf s p) f = []) :
    popByte p f s = { s with draws := s.draws + 1 } := by
  have hdraw : drawIfEmpty (fifoOf (hwOf s p) f) s = { s with draws := s.draws + 1 } := by simp [drawIfEmpty, h]
  have hset : popByte p f s = setFifo p f (fifoOf (hwOf s p) f) { s with draws := s.draws + 1 } := by
    cases f <;> simp only [fifoOf] at h hdraw <;> simp only [popByte, opOutPopByte, opCtrlPopByte, hdraw] <;>
      exact updHw_congr (by simp [fifoOf, h])
  exact hset.trans (setFifo_self p f { s with draws := s.draws + 1 })

/-- A pop returns and removes the oldest byte; of an empty FIFO it draws a byte and leaves everything else (20_memory.md R53). -/
theorem Ready.pops {p : Port} {s : State} (hs : Ready p s) (f : ReadFifo) :
    ∃ (t : State) (b : Byte), onPort p (mainAtomic (fun u => .byte (popByteValue p f u)) (popByte p f)) s = .next t ∧
      (∀ (c : Byte) (rest : List Byte), fifoOf (hwOf s p) f = c :: rest → b = c ∧ HwStep p s t [] (.byte b) ∧
        hwOf t p = hwOf (setFifo p f rest s) p) ∧
      (fifoOf (hwOf s p) f = [] → t = { s with ret := .byte b, draws := t.draws }) := by
  refine ⟨_, popByteValue p f s, (onPort_exists hs.1).trans (mainAtomic_enabled hs.2), fun c rest h => ?_, fun h => ?_⟩
  · rw [popByte_cons h, popByte_value h]
    refine ⟨rfl, ?_, rfl⟩
    rw [setFifo, updHw_eq_writeHw]
    exact hwStep_writeHw ..
  · rw [popByte_nil h]
    rfl

/-- Settles O29: the four queries change nothing; the two pops are `Ready.pops` of their FIFO. -/
theorem fifoReads : Obligations.FifoReads := by
  intro p s hs
  have hset (f : ReadFifo) (rest : List Byte) : hwOf (setFifo p f rest s) p = _ :=
    hwOf_updHw_self (portExists_iff.1 hs.1).1
  have hout := hs.pops .out
  have hctrl := hs.pops .ctrl
  simp only [hset] at hout hctrl
  exact ⟨hs.reads (congrArg Ret.bool (not_isEmpty_eq_decide _)), hs.reads (congrArg Ret.bool (not_isEmpty_eq_decide _)),
    hs.reads rfl, hs.reads rfl, hout, hctrl⟩

/-! ## Writes of the OUT and the IN group (R151 to R157) -/

/-- Settles O30: OUT_PRIME, IN_COMMIT and a push with room are one write; a push without room is one count. -/
theorem inAndOutWrites : Obligations.InAndOutWrites := by
  refine ⟨fun p s hs => ⟨fun e => ?prime, fun b hroom => ?push, fun b hfull => ?drop,
      fun e => hs.writes (op := opInCommit p e) rfl⟩,
    fun p s hs => ⟨hs.reads rfl, hs.reads (congrArg Ret.bool (not_isEmpty_eq_decide _)), hs.reads rfl⟩⟩
  case prime =>
    obtain ⟨t, ht, hstep, hhw⟩ := hs.writes (op := opOutPrime p e) (r := fun _ => .nothing) rfl
    exact ⟨t, ht, hstep, by rw [hhw], fun e' => by rw [hhw, epBit_setEpBit]⟩
  case push =>
    exact hs.writes (op := opInPushByte p b) ((if_pos hroom).trans (updHw_eq_writeHw ..))
  case drop =>
    have hop : opInPushByte p b s = logWriteOverflow p s := if_neg (by omega)
    refine ⟨_, (onPort_exists hs.1).trans (mainAtomic_enabled hs.2), ?_⟩
    rw [hop]
    refine ⟨rfl, fun q => ?_⟩
    simp only [swOf_setRet, logWriteOverflow, swOf_updSw, (portExists_iff.1 hs.1).2, and_true]

end Sys2Proof.Machine
end

section
/-! PROOFS. O26: DISCONNECT (42_register_ops.md R136). `afterDisconnectSteps k` is what its first `k` steps make of the port's
registers; one chain (`reaches_disconnect`) gives the turn of every length up to eight. -/

namespace Sys2Proof.Machine

/-- The registers after the first `k` of DISCONNECT's eight steps. -/
def afterDisconnectSteps (k : Nat) (h : HwPort) : HwPort :=
  { h with
    ie := ⟨decide (k < 1) && h.ie.ctl, decide (k < 2) && h.ie.epc, decide (k < 3) && h.ie.out, decide (k < 4) && h.ie.inp⟩
    epcFifo := if k < 5 then h.epcFifo else []
    inFifo := if k < 6 then h.inFifo else []
    inFlight := decide (k < 6) && h.inFlight
    outFifo := if k < 7 then h.outFifo else []
    outPrimed := if k < 7 then h.outPrimed else EpBits.zero
    connect := decide (k < 8) && h.connect }

/-- The trace of the first `k` of DISCONNECT's eight steps: the four that clear enables leave no entry. -/
def disconnectTrace (p : Port) (k : Nat) : List Obs :=
  [.fifoReset p .epc, .fifoReset p .inp, .fifoReset p .out, .disconnect p].take (k - 4)

/-- The state after the first `k` of DISCONNECT's eight steps. -/
def disconnectState (p : Port) (k : Nat) (s : State) : State :=
  writeHw p (afterDisconnectSteps k) (disconnectTrace p k) s

theorem disconnectState_zero (p : Port) (s : State) : disconnectState p 0 s = s := writeHw_id p s

theorem hwOf_disconnectState {p : Port} {s : State} (hp : portExists p s = true) (k : Nat) :
    hwOf (disconnectState p k s) p = afterDisconnectSteps k (hwOf s p) := hwOf_writeHw hp _ _

/-- Step number `k` of DISCONNECT. -/
theorem disconnect_step (p : Port) {k : Nat} (hk : k < 8) :
    ∃ t : Task, (disconnectTasks p).drop k = t :: (disconnectTasks p).drop (k + 1) ∧
      ∀ s : State, taskStep t (disconnectState p k s) = goOn [] (disconnectState p (k + 1) s) := by
  have hdisable (src : Source) (j : Nat) (s : State)
      (hf : (fun h => { h with ie := setSrcBit h.ie src false }) ∘ afterDisconnectSteps j = afterDisconnectSteps (j + 1))
      (hl : disconnectTrace p j ++ [] = disconnectTrace p (j + 1)) :
      taskStep (.call p (.disableInterrupt src)) (disconnectState p j s) = goOn [] (disconnectState p (j + 1) s) := by
    simp only [taskStep, callStep, opDisableInterrupt, updHw_eq_writeHw, disconnectState, writeHw_writeHw, hf, hl]
  have hreset (g : FifoGroup) (j : Nat) (s : State)
      (hf : resetFifoRegs g ∘ afterDisconnectSteps j = afterDisconnectSteps (j + 1))
      (hl : disconnectTrace p j ++ [.fifoReset p g] = disconnectTrace p (j + 1)) :
      taskStep (.call p (.resetFifo g)) (disconnectState p j s) = goOn [] (disconnectState p (j + 1) s) := by
    have hop (u : State) : opResetFifo p g u = writeHw p (resetFifoRegs g) [.fifoReset p g] u := rfl
    simp only [taskStep, callStep, hop, disconnectState, writeHw_writeHw, hf, hl]
  interval_cases k
  · exact ⟨_, rfl, fun s => hdisable .ctl 0 s rfl rfl⟩
  · exact ⟨_, rfl, fun s => hdisable .epc 1 s rfl rfl⟩
  · exact ⟨_, rfl, fun s => hdisable .out 2 s rfl rfl⟩
  · exact ⟨_, rfl, fun s => hdisable .inp 3 s rfl rfl⟩
  · exact ⟨_, rfl, fun s => hreset .epc 4 s rfl rfl⟩
  · exact ⟨_, rfl, fun s => hreset .inp 5 s rfl rfl⟩
  · exact ⟨_, rfl, fun s => hreset .out 6 s rfl rfl⟩
  · exact ⟨_, rfl, fun s => congrArg (goOn []) (writeHw_writeHw p (afterDisconnectSteps 7) _ _ [.disconnect p] s)⟩

theorem reaches_disconnect (p : Port) (s : State) (k : Nat) (hk : k ≤ 8) :
    Reaches k (disconnectTasks p) s ((disconnectTasks p).drop k) (disconnectState p k s) := by
  induction k with
  | zero =>
    rw [disconnectState_zero]
    exact Reaches.refl _ _
  | succ k ih =>
    obtain ⟨t, hdrop, hstep⟩ := disconnect_step p hk
    have hprev := ih (by omega)
    rw [hdrop] at hprev
    exact hprev.trans (Reaches.head (hstep s))

/-- A turn that is over before its work is done leaves the rest before the work suspended in `s` (log 2). -/
theorem startMain_cut {k : Nat} {ts ts' : List Task} {s s' : State} (he : mainEnabled s = true)
    (h : Reaches k ts (setRet .nothing s) ts' s') (hk : turnLength s = k) :
    startMain ts s = .next { s' with main := ts' ++ s.main } := by
  have hrun := h 0 []
  simp only [Nat.zero_add, List.append_nil, runTasks_zero] at hrun
  simp only [startMain, he, if_true, hk, hrun]

/-- A turn of DISCONNECT that is cut after `k` of its steps. -/
theorem Ready.disconnect_cut {p : Port} {s : State} (hs : Ready p s) {k : Nat} (hk : k ≤ 8) :
    ∃ t : State, exec (.disconnect p) { s with quantum := some k } = .next t ∧
      t.main = (disconnectTasks p).drop k ++ s.main ∧ t.g = { s.g with obs := s.g.obs ++ disconnectTrace p k } ∧
      hwOf t p = afterDisconnectSteps k (hwOf s p) := by
  have hp : portExists p { s with quantum := some k } = true := hs.1
  have he : mainEnabled { s with quantum := some k } = true := hs.2
  have hcut := startMain_cut he (reaches_disconnect p (setRet .nothing { s with quantum := some k }) k hk) rfl
  exact ⟨_, (onPort_exists hp).trans hcut, rfl, rfl,
    hwOf_disconnectState (s := setRet .nothing { s with quantum := some k }) hp k⟩

/-- With the line down no move of the bus agent is enabled (R136). -/
theorem hostGuards_of_disconnected {p : Port} {t : State} (h : (hwOf t p).connect = false) (a : DevAddr) (e : EpNo)
    (d : Dir) : hostBusResetGuard p t = false ∧ hostSetupGuard p a t = false ∧ hostOutGuard p a e t = false ∧
      hostInGuard p a e t = false ∧ hostSeesStallGuard p a d e t = false :=
  ⟨h, hostSetupGuard_eq_false_iff.2 (.inl h), hostOutGuard_eq_false_iff.2 (.inl h), hostInGuard_eq_false_iff.2 (.inl h),
    hostSeesStallGuard_eq_false_iff.2 (.inl h)⟩

/-- Work is left of DISCONNECT before its eighth step. -/
theorem disconnectTasks_left (p : Port) {k : Nat} (hk : k < 8) (ts : List Task) :
    (disconnectTasks p).drop k ++ ts ≠ [] := by
  obtain ⟨t, hdrop, -⟩ := disconnect_step p hk
  simp [hdrop]

/-- Settles O26: the whole operation is `disconnectState 8`, a turn cut after `k` steps is `disconnectState k`. -/
theorem disconnectSequence : Obligations.DisconnectSequence := by
  intro p s hs
  refine ⟨fun hlen => ?whole, fun k hk => ?enables, ?line⟩
  case whole =>
    have hhw := hwOf_disconnectState hs.1 8
    refine ⟨setRet .nothing (disconnectState p 8 s),
      (onPort_exists hs.1).trans (startMain_run hs.2 (reaches_disconnect p (setRet .nothing s) 8 le_rfl) hlen),
      hwStep_writeHw p _ (disconnectTrace p 8) .nothing s, hhw, hostGuards_of_disconnected ?_⟩
    rw [hwOf_setRet, hhw]
    rfl
  case enables =>
    obtain ⟨t, ht, hmain, hg, hhw⟩ := hs.disconnect_cut (k := k) (by omega)
    refine ⟨t, ht, hmain ▸ disconnectTasks_left p (by omega) _, ?_, ?_⟩
    · simp [hg, disconnectTrace, show k - 4 = 0 by omega]
    · rw [hhw]
      simp [afterDisconnectSteps, show k < 5 by omega, show k < 6 by omega, show k < 7 by omega, show k < 8 by omega]
  case line =>
    obtain ⟨t, ht, hmain, hg, hhw⟩ := hs.disconnect_cut (k := 7) (by omega)
    exact ⟨t, ht, hmain ▸ disconnectTasks_left p (by omega) _, congrArg Global.obs hg, by rw [hhw]; rfl⟩

end Sys2Proof.Machine
end

section
/-! PROOFS. O31 and O32: the bus agent's moves under their guards (42_register_ops.md R158 to R163): each is one write of
`HW[p]` with one entry of the trace (`busMove_writes`). -/

namespace Sys2Proof.Machine

/-- A SETUP packet to endpoint 0 ends its stall in both directions, and touches no other stall bit (R159, 10_state.md R35). -/
theorem stallBit_endStall (e : EpNo) (h : HwPort) (d : Dir) (e' : EpNo) :
    stallBit (endStall e h) d e' = if e = 0 ∧ e' = 0 then false else stallBit h d e' := by
  rcases eq_or_ne e 0 with rfl | he
  · rw [endStall, if_pos rfl, stallBit_setStallBit, stallBit_setStallBit]
    cases d <;> simp
  · rw [endStall, if_neg he, if_neg (fun h => he h.1)]

theorem endStall_frame (e : EpNo) (h : HwPort) :
    endStall e h = { h with stallIn := (endStall e h).stallIn, stallOut := (endStall e h).stallOut } := by
  unfold endStall
  split <;> rfl

/-- Settles O31: the bit files are read back after the one write of each move. -/
theorem hostMoves : Obligations.HostMoves := by
  refine ⟨⟨fun p sp s hp hc => ?busReset, fun p a e bytes s hp hc ha => ?setup⟩,
    fun p a e bytes s hp hc ha hprime hstall => ?outPacket, fun p a e s hp hc ha hfly hep hstall => ?inTake⟩
  case busReset => exact busMove_writes hp (guard := hostBusResetGuard p) (op := hostBusResetMove p sp) hc rfl
  case setup =>
    have hg : hostSetupGuard p a s = true := by simp [hostSetupGuard, hc, ha]
    obtain ⟨t, ht, hstep, hhw⟩ := busMove_writes hp hg (op := hostSetupMove p e bytes) rfl
    exact ⟨t, ht, hstep, by rw [hhw]; exact endStall_frame .., fun d e' => by rw [hhw]; exact stallBit_endStall ..⟩
  case outPacket =>
    have hg : hostOutGuard p a e s = true := by simp [hostOutGuard, hc, ha, hprime, hstall]
    obtain ⟨t, ht, hstep, hhw⟩ := busMove_writes hp hg (op := hostOutMove p e bytes) rfl
    refine ⟨t, ht, hstep, by rw [hhw]; rfl, fun e' => ?_, fun e' => ?_⟩
    · rw [hhw]
      exact epBit_setEpBit ..
    · rw [hhw, pidBit_setPidBit]
      simp [pidBit]
  case inTake =>
    have hg : hostInGuard p a e s = true := by simp [hostInGuard, hc, ha, hfly, hep, hstall]
    obtain ⟨t, ht, hstep, hhw⟩ := busMove_writes hp hg (op := hostInMove p e)
      ((updHw_observe ..).trans (observe_updHw_eq_writeHw ..))
    refine ⟨t, ht, hstep, by rw [hhw]; rfl, fun e' => ?_⟩
    rw [hhw, pidBit_setPidBit]
    simp [pidBit]

/-- Settles O32: HOST_SEES_STALL is one entry of the trace; SPURIOUS_IRQ sets the field that makes an entry possible. -/
theorem hostStallAndSpurious : Obligations.HostStallAndSpurious := by
  refine ⟨fun p a d e s hp hc hin hout hstall => ?_, fun extra s => ⟨_, rfl, rfl, fun hf => by simp [irqEnabled, hf]⟩⟩
  have haddr : a = tokenAddress (hwOf s p) d := by
    cases d
    case inp => exact hin rfl
    case out => exact hout rfl
  have hg : hostSeesStallGuard p a d e s = true := by simp [hostSeesStallGuard, hc, haddr, hstall]
  exact (onPort_exists hp).trans (busMove_enabled hg)

end Sys2Proof.Machine
end

section
/-! SUPPORT. The dispatcher's pieces, said once each (43_dispatcher_queue.md R170 to R179): what a push and a pop leave, a run of
operations of one step, the handler of a source up to its push (`reaches_irqHandler`), and the walk down the priority chain
(`reaches_found`, `reaches_noneFound`). -/

namespace Sys2Proof.Machine

/-! ## The push and the pop (R178, R179) -/

theorem opEvqPush_room {ev : Event} {s : State} (h : s.g.evq.length ≠ s.cfg.evqCapacity) :
    opEvqPush ev s = { s with g := { s.g with evq := s.g.evq ++ [ev] } } := if_neg h

theorem opEvqPush_full {ev : Event} {s : State} (h : s.g.evq.length = s.cfg.evqCapacity) :
    opEvqPush ev s = raiseFatal s := if_pos h

/-- On a machine that runs, the push alone decides the fatal latch. -/
theorem opEvqPush_running {ev : Event} {s : State} (hf : s.g.fatal = false) :
    opEvqPush ev s = { s with g := { s.g with
      evq := if s.g.evq.length = s.cfg.evqCapacity then s.g.evq else s.g.evq ++ [ev],
      fatal := decide (s.g.evq.length = s.cfg.evqCapacity) } } := by
  by_cases h : s.g.evq.length = s.cfg.evqCapacity
  · simp [opEvqPush_full, h, raiseFatal]
  · simp [opEvqPush_room h, h, ← hf]

theorem opEvqPop_nil {s : State} (h : s.g.evq = []) : opEvqPop s = s := by
  rw [opEvqPop, h, List.tail_nil, ← h]

theorem opEvqPop_cons {ev : Event} {rest : List Event} {s : State} (h : s.g.evq = ev :: rest) :
    opEvqPop s = { s with g := { s.g with evq := rest } } := by
  rw [opEvqPop, h, List.tail_cons]

/-! ## Operations of one step (42_register_ops.md R130) -/

theorem callStep_oneStep {o : PortOp} (ho : isOneStep o = true) (p : Port) (s : State) :
    callStep p o s = goOn [] (callStep p o s).state := by
  cases o
  case disconnect | read | readControl | write | writeZlp => cases ho
  all_goals rfl

/-- Operations of one step each, in the order of the list. -/
theorem reaches_ops (p : Port) (ops : List PortOp) (hops : ops.all isOneStep = true) (s : State) :
    Reaches ops.length (ops.map (Task.call p)) s [] (afterOps p ops s) := by
  induction ops generalizing s with
  | nil => exact Reaches.refl _ _
  | cons o ops ih =>
    rw [List.all_cons, Bool.and_eq_true] at hops
    exact Reaches.cons (callStep_oneStep hops.1 p s) (ih hops.2 _)

/-! ## The handler of a source (R172 to R175) -/

/-- What IRQ_BUS_RESET performs before its push (R172). -/
def busResetOps : List PortOp :=
  [.clearPending .ctl, .disableInterrupt .ctl, .disableInterrupt .epc, .disableInterrupt .inp,
   .resetFifo .epc, .resetFifo .inp, .resetFifo .out, .enableInterrupt .ctl, .enableInterrupt .epc, .enableInterrupt .inp]

/-- The registers IRQ_BUS_RESET leaves: OUT's enable is as it was (R172). -/
def busResetRegs (h : HwPort) : HwPort :=
  { h with
    pend := { h.pend with ctl := false }, ie := { h.ie with ctl := true, epc := true, inp := true },
    epcFifo := [], inFifo := [], inFlight := false, outFifo := [], outPrimed := EpBits.zero }

/-- The state in which the handler of a source comes to its push. -/
def afterService (p : Port) (src : Source) (s : State) : State :=
  match src with
  | .ctl => writeHw p busResetRegs [.fifoReset p .epc, .fifoReset p .inp, .fifoReset p .out] s
  | .epc => opClearPending p .epc s
  | .out => opClearPending p .out s
  | .inp => swWrite p (.pendingTxAck false) (opClearPending p .inp s)

/-- How many steps the handler of a source takes before its push. -/
def serviceSteps : Source → Nat
  | .ctl => 11
  | .epc => 3
  | .out => 3
  | .inp => 4

theorem serviceSteps_le (src : Source) : serviceSteps src ≤ 11 := by
  cases src <;> decide

theorem afterOps_busReset (p : Port) (s : State) : afterOps p busResetOps s = afterService p .ctl s := by
  have hreset (g : FifoGroup) (u : State) : opResetFifo p g u = writeHw p (resetFifoRegs g) [.fifoReset p g] u := rfl
  simp only [afterOps, busResetOps, List.foldl_cons, List.foldl_nil, callStep, goOn, opClearPending, opDisableInterrupt,
    opEnableInterrupt, hreset, updHw_eq_writeHw, writeHw_writeHw]
  rfl

theorem touches_writeHw (p : Port) (f : HwPort → HwPort) (l : List Obs) (s : State) : Touches p s (writeHw p f l s) :=
  { Touches.updHw p f s with obs := List.prefix_append _ _ }

/-- The handler of a source, up to its push. -/
theorem reaches_irqHandler (p : Port) (src : Source) (s : State) :
    Reaches (serviceSteps src) [.irqHandler p src] s [.evqPush (sourceEvent s p src)] (afterService p src s) := by
  have hstart : Reaches 1 [.irqHandler p src] s (irqHandlerTasks p src) s := Reaches.step rfl
  have hread (u : EpnoUse) (t : State) : Reaches 1 [.irqEpno p u] t (irqEpnoTasks p t u) t := Reaches.step rfl
  have hclear (c : Source) (ts : List Task) :
      Reaches 1 (.call p (.clearPending c) :: ts) s ts (opClearPending p c s) :=
    Reaches.head (next := []) rfl
  cases src with
  | ctl =>
    have hops := (reaches_ops p busResetOps rfl s).frame [.evqPush (.busReset p)]
    rw [afterOps_busReset] at hops
    exact hstart.trans hops
  | epc => exact (hstart.trans (hread .receiveControl s)).trans (hclear .epc _)
  | out => exact (hstart.trans (hread .receivePacket s)).trans (hclear .out _)
  | inp =>
    have hflag : Reaches 1 [.sw p (.pendingTxAck false), .irqEpno p .sendComplete] (opClearPending p .inp s)
        [.irqEpno p .sendComplete] (afterService p .inp s) := Reaches.head (next := []) rfl
    have hep : opInEpno p (afterService p .inp s) = (hwOf s p).inEpno := by
      simp only [opInEpno, afterService, swWrite, hwOf_updSw, opClearPending, hwOf_updHw]
      split <;> rfl
    have hevent := hread .sendComplete (afterService p .inp s)
    rw [irqEpnoTasks, hep] at hevent
    exact ((hstart.trans (hclear .inp _)).trans hflag).trans hevent

/-- A handler writes its own port and the trace only. -/
theorem touches_afterService (p : Port) (src : Source) (s : State) : Touches p s (afterService p src s) := by
  cases src with
  | ctl => exact touches_writeHw ..
  | epc => exact touches_opClearPending ..
  | out => exact touches_opClearPending ..
  | inp => exact (touches_opClearPending p .inp s).trans (touches_swWrite p (.pendingTxAck false) _)

/-- A handler clears its own pending bit and no other. -/
theorem pend_afterService {p : Port} {s : State} (hp : p < s.hw.length) (src : Source) :
    (hwOf (afterService p src s) p).pend = setSrcBit (hwOf s p).pend src false := by
  have hclear (src' : Source) : hwOf (opClearPending p src' s) p = _ := hwOf_updHw_self hp
  cases src with
  | ctl => exact congrArg HwPort.pend (hwOf_updHw_self hp)
  | epc => rw [afterService, hclear]
  | out => rw [afterService, hclear]
  | inp => rw [afterService, swWrite, hwOf_updSw, hclear]

/-! ## The priority chain (R170, R171) -/

/-- The dispatcher looks at the source `x` before the source `y` (R171). -/
def LookedAtBefore (x y : Port × Source) : Prop := x.1 < y.1 ∨ x.1 = y.1 ∧ sourceRank x.2 < sourceRank y.2

theorem priorityChain_sorted (n : Nat) : (priorityChain n).Pairwise LookedAtBefore := by
  have hport (p : Port) : ∀ x ∈ [(p, Source.ctl), (p, .epc), (p, .out), (p, .inp)], x.1 = p := by simp
  refine List.pairwise_flatMap.2 ⟨fun p _ => by simp [LookedAtBefore, sourceRank], List.pairwise_lt_range.imp ?_⟩
  intro p q hpq x hx y hy
  left
  rwa [hport p x hx, hport q y hy]

theorem length_priorityChain (n : Nat) : (priorityChain n).length = 4 * n := by
  simp [priorityChain, List.length_flatMap, Nat.mul_comm]

theorem mem_priorityChain {n : Nat} {p : Port} (h : p < n) (src : Source) : (p, src) ∈ priorityChain n :=
  List.mem_flatMap.2 ⟨p, List.mem_range.2 h, by cases src <;> simp⟩

/-- Queries that find nothing pending. -/
theorem reaches_scan {s : State} (extra : Nat) (rest : List (Port × Source)) :
    ∀ pre : List (Port × Source), (∀ x ∈ pre, opIsPending x.1 x.2 s = false) →
      Reaches pre.length [.irqScan (pre ++ rest) extra] s [.irqScan rest extra] s
  | [], _ => Reaches.refl _ _
  | x :: pre, h => by
    have hstep : taskStep (.irqScan (x :: pre ++ rest) extra) s = goOn [.irqScan (pre ++ rest) extra] s := by
      simp [taskStep, irqScanTasks, h x (by simp)]
    rw [List.length_cons, Nat.add_comm]
    exact (Reaches.step hstep).trans (reaches_scan extra rest pre fun y hy => h y (by simp [hy]))

/-- The walk ends at the first pending source, with its handler. -/
theorem reaches_found {s : State} {p : Port} {src : Source} (hp : p < s.hw.length) (h : FirstPending s p src) (extra : Nat) :
    ∃ k ≤ 4 * s.hw.length, Reaches k [.irqScan (priorityChain s.hw.length) extra] s [.irqHandler p src] s := by
  obtain ⟨hpend, hfirst⟩ := h
  obtain ⟨pre, rest, hchain⟩ := List.append_of_mem (mem_priorityChain hp src)
  have hsorted := priorityChain_sorted s.hw.length
  have hlen := length_priorityChain s.hw.length
  rw [hchain] at hsorted hlen ⊢
  have hpre : ∀ x ∈ pre, opIsPending x.1 x.2 s = false := fun x hx =>
    hfirst x.1 x.2 ((List.pairwise_append.1 hsorted).2.2 x hx (p, src) (by simp))
  have hfound : taskStep (.irqScan ((p, src) :: rest) extra) s = goOn [.irqHandler p src] s := by
    simp [taskStep, irqScanTasks, opIsPending, hpend]
  simp only [List.length_append, List.length_cons] at hlen
  exact ⟨pre.length + 1, by omega, (reaches_scan extra _ pre hpre).trans (Reaches.step hfound)⟩

/-- With nothing pending the walk ends with IRQ_UNKNOWN. -/
theorem reaches_noneFound {s : State} (h : ∀ (p : Port) (src : Source), srcBit (hwOf s p).pend src = false) (extra : Nat) :
    Reaches (4 * s.hw.length + 1) [.irqScan (priorityChain s.hw.length) extra] s [.irqUnknown extra] s := by
  have hscan := reaches_scan (s := s) extra [] (priorityChain s.hw.length) fun x _ => h x.1 x.2
  rw [List.append_nil, length_priorityChain] at hscan
  exact hscan.trans (Reaches.step rfl)

/-- A pending source is a source of a port that is there (10_state.md R42). -/
theorem lt_of_srcBit_pend {s : State} {p : Port} {src : Source} (h : srcBit (hwOf s p).pend src = true) :
    p < s.hw.length := by
  by_contra hp
  rw [hwOf_absent (Nat.le_of_not_lt hp)] at h
  cases src <;> cases h

/-! ## The raw pending bitmap (30_encoding.md R94) -/

theorem pend4_lt (h : HwPort) : pend4 h < 16 := by
  have hctl := Bool.toNat_le h.pend.ctl
  have hepc := Bool.toNat_le h.pend.epc
  have hout := Bool.toNat_le h.pend.out
  have hinp := Bool.toNat_le h.pend.inp
  unfold pend4
  omega

theorem sourceRank_lt (src : Source) : sourceRank src < 4 := by
  cases src <;> decide

theorem testBit_pend4 (h : HwPort) (src : Source) : (pend4 h).testBit (sourceRank src) = srcBit h.pend src := by
  unfold pend4
  rcases h.pend with ⟨ctl, epc, out, inp⟩
  cases src <;> revert ctl epc out inp <;> decide

theorem pendBits_lt (l : List HwPort) : pendBits l < 2 ^ (4 * l.length) := by
  induction l with
  | nil => simp [pendBits]
  | cons h l ih =>
    have h4 := pend4_lt h
    rw [pendBits, List.length_cons, show 4 * (l.length + 1) = 4 * l.length + 4 by omega, Nat.pow_add]
    omega

theorem pend4_eq_zero {h : HwPort} (hnone : ∀ src : Source, srcBit h.pend src = false) : pend4 h = 0 := by
  have hctl : h.pend.ctl = false := hnone .ctl
  have hepc : h.pend.epc = false := hnone .epc
  have hout : h.pend.out = false := hnone .out
  have hinp : h.pend.inp = false := hnone .inp
  simp [pend4, hctl, hepc, hout, hinp]

theorem pendBits_eq_zero {l : List HwPort} (h : ∀ k ∈ l, pend4 k = 0) : pendBits l = 0 := by
  induction l with
  | nil => rfl
  | cons k l ih => rw [pendBits, h k (by simp), ih fun x hx => h x (by simp [hx])]

/-- Bit `4p + s` is source `s` of port `p`, port 0 lowest. -/
theorem testBit_pendBits (src : Source) : ∀ (l : List HwPort) (p : Nat) (hp : p < l.length),
    (pendBits l).testBit (4 * p + sourceRank src) = srcBit l[p].pend src
  | h :: l, p, hp => by
    have hrank := sourceRank_lt src
    rw [pendBits, Nat.add_comm (pend4 h), show 16 = 2 ^ 4 from rfl, Nat.testBit_two_pow_mul_add _ (pend4_lt h)]
    cases p with
    | zero =>
      rw [if_pos (by omega), Nat.mul_zero, Nat.zero_add]
      exact testBit_pend4 h src
    | succ p =>
      rw [if_neg (by omega), show 4 * (p + 1) + sourceRank src - 4 = 4 * p + sourceRank src by omega]
      exact testBit_pendBits src l p (by simpa using hp)

theorem hwOf_eq_getElem {s : State} {p : Port} (h : p < s.hw.length) : hwOf s p = s.hw[p] := by
  simp [hwOf, h]

theorem testBit_rawPending {s : State} {p : Nat} (hp : p < s.hw.length) (src : Source) (extra : Nat) :
    (rawPending s extra).testBit (4 * p + sourceRank src) = srcBit (hwOf s p).pend src := by
  have hrank := sourceRank_lt src
  rw [rawPending, Nat.add_comm, Nat.mul_comm, Nat.testBit_two_pow_mul_add _ (pendBits_lt s.hw), if_pos (by omega),
    testBit_pendBits src s.hw p hp, hwOf_eq_getElem hp]

/-- Above the ports' own bits stand the foreign ones (R176). -/
theorem rawPending_div (s : State) (extra : Nat) : rawPending s extra / 2 ^ (4 * s.hw.length) = extra := by
  rw [rawPending, Nat.add_mul_div_right _ _ (Nat.two_pow_pos _), Nat.div_eq_of_lt (pendBits_lt s.hw), Nat.zero_add]

/-- With nothing pending there are the foreign bits only. -/
theorem rawPending_none {s : State} (h : ∀ (p : Port) (src : Source), srcBit (hwOf s p).pend src = false) (extra : Nat) :
    rawPending s extra = extra * 2 ^ (4 * s.hw.length) := by
  have hzero : pendBits s.hw = 0 := pendBits_eq_zero fun k hk => by
    obtain ⟨p, hp, rfl⟩ := List.mem_iff_getElem.1 hk
    rw [← hwOf_eq_getElem hp]
    exact pend4_eq_zero (h p)
  rw [rawPending, hzero, Nat.zero_add]

end Sys2Proof.Machine
end

section
/-! PROOFS. O34 to O38: the dispatcher and the queue (43_dispatcher_queue.md R170 to R179). Every turn of the dispatcher is a
chain of steps to one push: the walk down the priority chain, then a handler (`reaches_irqHandler`) or IRQ_UNKNOWN. -/

namespace Sys2Proof.Machine

/-! ## One entry -/

/-- Where the walk down the chain begins: the spurious cause is answered (log 14). -/
def irqEntered (s : State) : State := { s with spurious := none, ret := .nothing }

/-- An entry that finds a source pending serves it, and pushes its event. -/
theorem irqEntry_served {s : State} (he : irqEnabled s = true) (hirq : s.irq = [])
    (hlen : 4 * s.hw.length + 16 ≤ turnLength s) {p : Port} {src : Source} (hfirst : FirstPending s p src) :
    exec .irqEntry s = .next (opEvqPush (sourceEvent s p src) (afterService p src (irqEntered s))) := by
  obtain ⟨k, hk, hwalk⟩ := reaches_found (s := irqEntered s) (lt_of_srcBit_pend hfirst.1) hfirst (s.spurious.getD 0)
  have hchain := hwalk.trans (reaches_irqHandler p src (irqEntered s))
  have hsteps := serviceSteps_le src
  change k ≤ 4 * s.hw.length at hk
  exact irqTurn_push he hirq hchain (by omega)

/-- An entry that finds nothing pending pushes the foreign bits. -/
theorem irqEntry_unknown {s : State} (he : irqEnabled s = true) (hirq : s.irq = [])
    (hlen : 4 * s.hw.length + 16 ≤ turnLength s) (hnone : ∀ (p : Port) (src : Source), srcBit (hwOf s p).pend src = false) :
    exec .irqEntry s
      = .next (opEvqPush (.unknownInterrupt (s.spurious.getD 0 * 2 ^ (4 * s.hw.length))) (irqEntered s)) := by
  have hbitmap : Reaches 1 [.irqUnknown (s.spurious.getD 0)] (irqEntered s)
      [.evqPush (.unknownInterrupt (rawPending s (s.spurious.getD 0)))] (irqEntered s) := Reaches.step rfl
  rw [rawPending_none hnone] at hbitmap
  have hwalk : Reaches (4 * s.hw.length + 1) _ _ _ _ :=
    reaches_noneFound (s := irqEntered s) hnone (s.spurious.getD 0)
  exact irqTurn_push he hirq (hwalk.trans hbitmap) (by omega)

/-- Of the pending bits, a service clears its own. -/
theorem srcBit_afterService {p : Port} {s : State} (hp : p < s.hw.length) (src : Source) (q : Port) (o : Source) :
    srcBit (hwOf (afterService p src s) q).pend o = if q = p ∧ o = src then false else srcBit (hwOf s q).pend o := by
  rcases eq_or_ne q p with rfl | hq
  · simp [pend_afterService hp]
  · simp [(touches_afterService p src s).hw q hq, hq]

/-- Settles O34: what a service leaves is read off `srcBit_afterService` and `touches_afterService`. -/
theorem entryServesFirstPending : Obligations.EntryServesFirstPending := by
  intro s he hirq hlen hroom
  refine ⟨fun p src hfirst => ?served, fun hnone => ?unknown⟩
  case served =>
    have hbit := srcBit_afterService (s := irqEntered s) (lt_of_srcBit_pend hfirst.1) src
    have htouch := touches_afterService p src (irqEntered s)
    have hfatal : s.g.fatal = false := by
      rw [irqEnabled, Bool.and_eq_true, Bool.not_eq_true'] at he
      exact he.1
    have hroom' : (afterService p src (irqEntered s)).g.evq.length ≠ (afterService p src (irqEntered s)).cfg.evqCapacity := by
      rw [htouch.evq, htouch.cfg]
      exact hroom.ne
    have hturn := irqEntry_served he hirq hlen hfirst
    rw [opEvqPush_room hroom'] at hturn
    refine ⟨_, hturn, htouch.irq.trans hirq, htouch.main, htouch.spurious, htouch.fatal.trans hfatal,
      congrArg (· ++ _) htouch.evq, ?_, fun q o hqo => ?_, fun q hq => ⟨htouch.hw q hq, htouch.sw q hq⟩⟩
    · exact (hbit p src).trans (if_pos ⟨rfl, rfl⟩)
    · exact (hbit q o).trans (if_neg hqo)
  case unknown =>
    rw [irqEntry_unknown he hirq hlen hnone, opEvqPush_room (s := irqEntered s) hroom.ne]
    rfl

/-! ## The handlers, performed by name -/

/-- IRQ_BUS_RESET, IRQ_RECEIVE_CONTROL, IRQ_RECEIVE_PACKET and IRQ_SEND_COMPLETE: the service of their source, and its push. -/
theorem startIrq_handler {p : Port} {s : State} (hp : portExists p s = true) (hf : s.g.fatal = false) (src : Source)
    (hlen : serviceSteps src + 1 ≤ turnLength s) :
    ∃ t : State, onPort p (startIrq [.irqHandler p src]) s = .next t ∧
      (∀ q : Port, q ≠ p → hwOf t q = hwOf s q ∧ swOf t q = swOf s q) ∧
      hwOf t p = hwOf (afterService p src s) p ∧ swOf t p = swOf (afterService p src s) p ∧
      t = { afterService p src s with ret := .nothing, g := { (afterService p src s).g with
        evq := if s.g.evq.length = s.cfg.evqCapacity then s.g.evq else s.g.evq ++ [sourceEvent s p src],
        fatal := decide (s.g.evq.length = s.cfg.evqCapacity) } } := by
  have hret : afterService p src (setRet .nothing s) = setRet .nothing (afterService p src s) := by cases src <;> rfl
  have hevent : sourceEvent (setRet .nothing s) p src = sourceEvent s p src := by cases src <;> rfl
  have hturn := startIrq_push hf (reaches_irqHandler p src (setRet .nothing s)) hlen
  have htouch := touches_afterService p src s
  rw [hret, hevent, opEvqPush_running (s := setRet .nothing (afterService p src s)) (htouch.fatal.trans hf)] at hturn
  refine ⟨_, (onPort_exists hp).trans hturn, fun q hq => ⟨htouch.hw q hq, htouch.sw q hq⟩, rfl, rfl, ?_⟩
  simp only [g_setRet, cfg_setRet, htouch.evq, htouch.cfg]
  rfl

/-- Settles O35: the service of CTL is one write of `HW[p]`. -/
theorem irqBusReset : Obligations.IrqBusReset := by
  intro p s hp hf hlen
  obtain ⟨t, ht, hothers, hhw, -, rfl⟩ := startIrq_handler hp hf .ctl hlen
  exact ⟨_, ht, fun q hq => (hothers q hq).1, hhw.trans (hwOf_writeHw hp _ _), rfl⟩

/-- Settles O36: each service clears its bit; that of IN clears pending_tx_ack too. -/
theorem irqEndpointHandlers : Obligations.IrqEndpointHandlers := by
  intro p s hp hf hlen
  obtain ⟨hph, hps⟩ := portExists_iff.1 hp
  have hclear (src : Source) : hwOf (opClearPending p src s) p = _ := hwOf_updHw_self hph
  refine ⟨?epc, ?out, ?inp⟩
  case epc =>
    obtain ⟨t, ht, hothers, hhw, -, rfl⟩ := startIrq_handler hp hf .epc (show 4 ≤ turnLength s by omega)
    exact ⟨_, ht, fun q hq => (hothers q hq).1, hhw.trans (hclear .epc), rfl⟩
  case out =>
    obtain ⟨t, ht, hothers, hhw, -, rfl⟩ := startIrq_handler hp hf .out (show 4 ≤ turnLength s by omega)
    exact ⟨_, ht, fun q hq => (hothers q hq).1, hhw.trans (hclear .out), rfl⟩
  case inp =>
    obtain ⟨t, ht, hothers, hhw, hsw, rfl⟩ := startIrq_handler hp hf .inp hlen
    exact ⟨_, ht, hothers, hhw.trans (hclear .inp), hsw.trans (swOf_updSw_self (s := opClearPending p .inp s) hps), rfl⟩

/-- Settles O37: the bitmap IRQ_UNKNOWN computes is pushed (R94, R176). -/
theorem irqUnknownBitmap : Obligations.IrqUnknownBitmap := by
  intro extra s hf hlen hroom
  have hbitmap : Reaches 1 [.irqUnknown extra] (setRet .nothing s) [.evqPush (.unknownInterrupt (rawPending s extra))]
      (setRet .nothing s) := Reaches.step rfl
  have hturn := startIrq_push hf hbitmap hlen
  rw [opEvqPush_room (s := setRet .nothing s) hroom.ne] at hturn
  refine ⟨rawPending s extra, hturn, fun p src k hp hk => ?_, rawPending_div s extra⟩
  have hrank : k = sourceRank src := by
    simp only [List.mem_cons, Prod.mk.injEq, List.not_mem_nil, or_false] at hk
    rcases hk with ⟨rfl, rfl⟩ | ⟨rfl, rfl⟩ | ⟨rfl, rfl⟩ | ⟨rfl, rfl⟩ <;> rfl
  rw [hrank, testBit_rawPending hp]

/-! ## The queue -/

theorem exec_evqPush {ev : Event} {s : State} (hp : PortPresent (eventPort ev) s) (hf : s.g.fatal = false) :
    exec (.evqPush ev) s = .next (setRet .nothing (opEvqPush ev s)) := by
  have hpush : irqAtomic (opEvqPush ev) s = .next (setRet .nothing (opEvqPush ev s)) := by simp [irqAtomic, hf]
  change execEvqPush ev s = _
  rw [execEvqPush]
  cases hport : eventPort ev with
  | some p => exact (onPort_exists (hp p hport)).trans hpush
  | none => exact hpush

theorem exec_evqPop {s : State} (he : mainEnabled s = true) :
    exec .evqPop s = .next (setRet (.event s.g.evq.head?) (opEvqPop s)) :=
  mainAtomic_enabled (r := fun u => .event (evqHead u)) he

/-- Settles O38: `opEvqPush_room` and `opEvqPush_full`, `opEvqPop_nil` and `opEvqPop_cons`. -/
theorem queueOperations : Obligations.QueueOperations := by
  refine ⟨fun ev s hp hf => ⟨fun hroom => ?_, fun hfull => ?_⟩, fun s he => ⟨fun hnil => ?_, fun ev rest hcons => ?_⟩⟩
  · rw [exec_evqPush hp hf, opEvqPush_room hroom]
    rfl
  · rw [exec_evqPush hp hf, opEvqPush_full hfull]
    rfl
  · rw [exec_evqPop he, opEvqPop_nil hnil, hnil]
    rfl
  · rw [exec_evqPop he, opEvqPop_cons hcons, hcons]
    rfl

end Sys2Proof.Machine
end

section
/-! PROOFS. O39 and O40: the main loop (43_dispatcher_queue.md R181, R182). Between two iterations a turn of the main agent is the
pop, one step (`mainStep_pops`), and then the work of the event's case (`eventTasks`). -/

namespace Sys2Proof.Machine

/-! ## One iteration -/

/-- Between two iterations a turn of the main agent starts with the pop. -/
theorem mainStep_betweenIterations {s : State} (hmain : s.main = []) : exec .mainStep s = startMain [.mainPop] s := by
  have hstart : ({ s with main := [] } : State) = s := by rw [← hmain]
  change mainTurn s = _
  simp only [mainTurn, startMain, mainWork_nil hmain, hstart, hmain, List.append_nil]

theorem mainPop_step {ev : Event} {rest : List Event} {s : State} (hq : s.g.evq = ev :: rest) :
    taskStep .mainPop s = goOn (eventTasks s.cfg.app (some ev)) { s with g := { s.g with evq := rest } } := by
  simp only [taskStep, evqHead, opEvqPop_cons hq, hq, List.head?_cons]

theorem mainPop_step_none {s : State} (hq : s.g.evq = []) : taskStep .mainPop s = goOn (appIdleTasks s.cfg.app) s := by
  simp only [taskStep, opEvqPop_nil hq, evqHead, hq, List.head?_nil, eventTasks]

/-- The pop takes one step of the turn (log 2); the rest of the turn does the work of the event's case. -/
theorem mainStep_pops {s u : State} {ts : List Task} {n : Nat} (he : mainEnabled s = true) (hmain : s.main = [])
    (hlen : turnLength s = n + 1) (hpop : taskStep .mainPop (setRet .nothing s) = goOn ts (setRet .nothing u))
    (hu : u.main = s.main) : exec .mainStep s = turnOf n ts u := by
  have hrun : runTasks (n + 1) [.mainPop] (setRet .nothing s) = runTasks n ts (setRet .nothing u) := by
    simpa using (Reaches.step hpop) n []
  rw [mainStep_betweenIterations hmain, startMain, if_pos he, hlen, hrun, turnOf, hu]

theorem mainStep_event {s : State} {ev : Event} {rest : List Event} {n : Nat} (he : mainEnabled s = true)
    (hmain : s.main = []) (hlen : turnLength s = n + 1) (hq : s.g.evq = ev :: rest) :
    exec .mainStep s = turnOf n (eventTasks s.cfg.app (some ev)) { s with g := { s.g with evq := rest } } :=
  mainStep_pops he hmain hlen (mainPop_step (s := setRet .nothing s) hq) rfl

theorem mainStep_idle {s : State} {n : Nat} (he : mainEnabled s = true) (hmain : s.main = [])
    (hlen : turnLength s = n + 1) (hq : s.g.evq = []) : exec .mainStep s = turnOf n (appIdleTasks s.cfg.app) s :=
  mainStep_pops he hmain hlen (mainPop_step_none (s := setRet .nothing s) hq) rfl

/-- Work done to its end within the turn. -/
theorem turnOf_run {k n : Nat} {ts : List Task} {s s' : State} (h : Reaches k ts (setRet .nothing s) [] s') (hk : k ≤ n) :
    turnOf n ts s = .next s' := by
  have hm : s'.main = s.main := h.keeps.main
  rw [turnOf, h.run hk, ← hm]
  rfl

/-- No work. -/
theorem turnOf_nil (n : Nat) (s : State) : turnOf n [] s = .next { s with ret := .nothing } :=
  turnOf_run (Reaches.refl _ _) (Nat.zero_le n)

/-! ## The case of the event -/

/-- Where the case of an event is one step of the engine, MAIN_STEP does the rest as the engine's instruction does. -/
theorem mainStep_continues {s : State} {ev : Event} {rest : List Event} {i : Instr} {t : Task} {p : Port}
    (he : mainEnabled s = true) (hmain : s.main = []) (hq : s.g.evq = ev :: rest) (hp : portExists p s = true)
    (hi : exec i = onPort p (startMain [t])) (ht : eventTasks s.cfg.app (some ev) = [t]) :
    Continues .mainStep i 1 s { s with g := { s.g with evq := rest } } := by
  have hpop : Reaches 1 [.mainPop] (setRet .nothing s) [t] (setRet .nothing { s with g := { s.g with evq := rest } }) :=
    Reaches.step ((mainPop_step (s := setRet .nothing s) hq).trans (congrArg (goOn · _) ht))
  refine continues_of_reaches (mainStep_betweenIterations hmain) (fun n => ?_) rfl he hpop
  rw [hi]
  exact onPort_exists hp

/-- An event of an endpoint that is not the control endpoint is APP's (R181). -/
theorem eventTasks_otherEndpoint {a : App} {ev : Event} {p : Port} {e : EpNo} (he : e ≠ 0)
    (hev : ev = .receiveControl p e ∨ ev = .receivePacket p e ∨ ev = .sendComplete p e) :
    eventTasks a (some ev) = appTasks p (appOnEvent a ev) := by
  rcases hev with rfl | rfl | rfl <;> exact if_neg he

theorem appTasks_ops (p : Port) (ops : List PortOp) : appTasks p (ops.map .op) = ops.map (Task.call p) := by
  induction ops with
  | nil => rfl
  | cons o ops ih => exact congrArg (Task.call p o :: ·) ih

/-- Settles O39: the case of each event is one step of the engine, or APP's work. -/
theorem mainStepRoutes : Obligations.MainStepRoutes := by
  intro s he hmain
  refine ⟨fun ev rest i p hq hp hev => ?engine, fun n ev rest p hlen hq => ⟨fun hev => ?reset, fun e hne hev => ?app⟩,
    fun n hlen hq => ⟨mainStep_idle he hmain hlen hq, fun hidle => ?idle⟩⟩
  case engine =>
    have hcontinues (t : Task) := mainStep_continues (i := i) (t := t) he hmain hq hp
    rcases hev with ⟨rfl, rfl, happ⟩ | ⟨rfl, rfl⟩ | ⟨rfl, rfl⟩ | ⟨rfl, rfl⟩ | ⟨e, hne, rfl, happ, hev⟩
    · exact hcontinues _ rfl (by rw [eventTasks, happ]; rfl)
    · exact hcontinues _ rfl rfl
    · exact hcontinues _ rfl rfl
    · exact hcontinues _ rfl rfl
    · exact hcontinues _ rfl (by rw [eventTasks_otherEndpoint hne hev, happ]; rfl)
  case reset =>
    subst hev
    exact mainStep_event he hmain hlen hq
  case app =>
    have hturn := mainStep_event he hmain hlen hq
    rw [eventTasks_otherEndpoint hne hev] at hturn
    refine ⟨hturn, fun happ => ?_, fun ops happ hone hn => ?_⟩
    · rw [hturn, happ]
      exact turnOf_nil ..
    · rw [hturn, happ, appTasks_ops]
      exact turnOf_run (reaches_ops p ops hone _) (by simpa using hn)
  case idle =>
    rw [mainStep_idle he hmain hlen hq, appIdleTasks, hidle]
    exact turnOf_nil n s

/-- Settles O40: the case of either event is one step, its counter's. -/
theorem unknownAndErrorCounted : Obligations.UnknownAndErrorCounted := by
  intro s rest he hmain hlen
  obtain ⟨n, hn⟩ : ∃ n, turnLength s = n + 1 := ⟨turnLength s - 1, by omega⟩
  refine ⟨fun raw hq => ?_, fun hq => ?_⟩
  · rw [mainStep_event he hmain hn hq]
    exact turnOf_run (Reaches.step (t := .logUnknownInterrupt) rfl) (by omega)
  · rw [mainStep_event he hmain hn hq]
    exact turnOf_run (Reaches.step (t := .logErrorEvent) rfl) (by omega)

end Sys2Proof.Machine
end

section
/-! SUPPORT. Work done to its end, said once: `Done n ts s t` says that the work `ts` leads from `s` to `t` within `n` steps,
which is what a turn of `n` steps answers (`Ready.turn`). The endings of the engine's handlers in that form, and the request
rows: the packet is latched, and the handler's work begins in `served` (44_control_engine.md R192, log 6). -/

namespace Sys2Proof.Machine

/-! ## Work done within a bound -/

theorem Reaches.of_eq {ts us : List Task} (h : ts = us) (s : State) : Reaches 0 ts s us s := h ▸ Reaches.refl ts s

/-- The work `ts` is done to its end, in state `t`, within `n` steps none of which waits. -/
def Done (n : Nat) (ts : List Task) (s t : State) : Prop := ∃ k ≤ n, Reaches k ts s [] t

namespace Done

theorem nil (n : Nat) (s : State) : Done n [] s s := ⟨0, Nat.zero_le n, Reaches.refl _ _⟩

theorem mono {m n : Nat} {ts : List Task} {s t : State} (h : Done m ts s t) (hmn : m ≤ n) : Done n ts s t := by
  obtain ⟨k, hk, hr⟩ := h
  exact ⟨k, hk.trans hmn, hr⟩

/-- A chain of steps, then the work it comes to. -/
theorem after {m n : Nat} {ts ts' : List Task} {s s' t : State} (h : Reaches m ts s ts' s') (h' : Done n ts' s' t) :
    Done (m + n) ts s t := by
  obtain ⟨k, hk, hr⟩ := h'
  exact ⟨m + k, by omega, h.trans hr⟩

theorem ofReaches {n : Nat} {ts : List Task} {s t : State} (h : Reaches n ts s [] t) : Done n ts s t := ⟨n, le_rfl, h⟩

/-- One step, then the rest of the work. -/
theorem step {n : Nat} {u : Task} {ts next : List Task} {s s' t : State} (h : taskStep u s = goOn next s')
    (h' : Done n (next ++ ts) s' t) : Done (n + 1) (u :: ts) s t := by
  obtain ⟨k, hk, hr⟩ := h'
  exact ⟨k + 1, by omega, Reaches.cons h hr⟩

end Done

/-- A turn that is long enough does its work to the end. -/
theorem Ready.turn {p : Port} {i : Instr} {ts : List Task} {n : Nat} {s t : State} (hs : Ready p s)
    (hi : exec i = onPort p (startMain ts)) (h : Done n ts (setRet .nothing s) t) (hn : n ≤ turnLength s) :
    exec i s = .next t := by
  obtain ⟨k, hk, hr⟩ := h
  rw [hi, onPort_exists hs.1]
  exact startMain_run hs.2 hr (hk.trans hn)

theorem Undisturbed.turn {p : Port} {i : Instr} {ts : List Task} {n need : Nat} {s t : State} (hs : Undisturbed p s need)
    (hi : exec i = onPort p (startMain ts)) (h : Done n ts (setRet .nothing s) t) (hn : n ≤ need) :
    exec i s = .next t :=
  hs.1.turn hi h (hn.trans hs.2)

/-- An instruction whose work comes to the one step that another instruction begins with. -/
theorem Ready.continues {p q : Port} {i j : Instr} {ti : List Task} {tj : Task} {k : Nat} {s u : State} (hs : Ready p s)
    (hi : exec i = onPort p (startMain ti)) (hj : exec j = onPort q (startMain [tj])) (hq : portExists q u = true)
    (hf : u.g.fatal = s.g.fatal) (hr : Reaches k ti (setRet .nothing s) [tj] (setRet .nothing u)) :
    Continues i j k s u := by
  refine continues_of_reaches ?_ (fun n => ?_) hf hs.2 hr
  · rw [hi]
    exact onPort_exists hs.1
  · rw [hj]
    exact onPort_exists hq

theorem Ready.lt_hw {p : Port} {s : State} (hs : Ready p s) : p < s.hw.length := (portExists_iff.1 hs.1).1
theorem Ready.lt_sw {p : Port} {s : State} (hs : Ready p s) : p < s.sw.length := (portExists_iff.1 hs.1).2

/-! ## The endings of the handlers -/

theorem done_stall (p : Port) (s : State) : Done 4 [.stallControlRequest p] s (afterStall p s) :=
  .ofReaches (reaches_stall p s)

theorem done_ack {p : Port} {s : State} (hp : p < s.hw.length) : Done 7 [.ackStatusStage p] s (afterAck p s) :=
  reaches_ack p s hp

theorem done_response {p : Port} {bytes : List Byte} {s : State} (h : OnePacket p bytes s) (hp : p < s.hw.length) :
    Done ((replyBytes p s bytes).length + 14) [.sendResponse p bytes] s (afterResponse p bytes s) :=
  reaches_response p bytes s h hp

theorem done_dataOutBegin (p : Port) (s : State) : Done 5 [.dataOutBegin p] s (afterDataOutBegin p s) :=
  .ofReaches (reaches_dataOutBegin p s)

theorem afterAck_of_hostToDevice {p : Port} {s : State} (h : directionOf (latched s p) = .hostToDevice) :
    afterAck p s = afterStatusIn p s := by
  rw [afterAck, h]

theorem afterAck_of_deviceToHost {p : Port} {s : State} (h : directionOf (latched s p) = .deviceToHost) :
    afterAck p s = afterStatusOut p s := by
  rw [afterAck, h]

/-- The status stage of a request that the host sent no data with, or its data before (R195). -/
theorem done_statusIn {p : Port} {s : State} (hp : p < s.hw.length) (h : directionOf (latched s p) = .hostToDevice) :
    Done 7 [.ackStatusStage p] s (afterStatusIn p s) :=
  afterAck_of_hostToDevice h ▸ done_ack hp

/-! ## The request rows -/

/-- The instruction is a request row for the packet, and its handler is `h` (30_encoding.md R99; log 6). -/
def Serves (i : Instr) (p : Port) (pk : SetupPacket) (h : Handler) : Prop :=
  exec i = onPort p (startMain [.latch p (encSetup pk), .request p h])

theorem serves_requestInstr (row : RequestRow) (p : Port) (pk : SetupPacket) :
    Serves (requestInstr row p pk) p pk (rowHandler row) := by
  cases row <;> rfl

/-- Rows that name one handler. -/
theorem serves_of_mem {rows : List RequestRow} {h : Handler} (hrows : ∀ row ∈ rows, rowHandler row = h) {p : Port}
    {pk : SetupPacket} {i : Instr} (hi : i ∈ rows.map (requestInstr · p pk)) : Serves i p pk h := by
  obtain ⟨row, hrow, rfl⟩ := List.mem_map.1 hi
  exact hrows row hrow ▸ serves_requestInstr row p pk

@[simp] theorem cfg_served (p : Port) (pk : SetupPacket) (s : State) : (served p pk s).cfg = s.cfg := rfl
@[simp] theorem hw_served (p : Port) (pk : SetupPacket) (s : State) : (served p pk s).hw = s.hw := rfl

theorem Ready.served {p : Port} {s : State} (hs : Ready p s) (pk : SetupPacket) : Ready p (served p pk s) := by
  refine ⟨portExists_iff.2 ⟨hs.lt_hw, ?_⟩, hs.2⟩
  simpa [Machine.served, afterLatch] using hs.lt_sw

theorem Ready.swOf_served {p : Port} {s : State} (hs : Ready p s) (pk : SetupPacket) :
    swOf (Machine.served p pk s) p = { swOf s p with x := encSetup pk } :=
  swOf_updSw_self (s := setRet .nothing s) hs.lt_sw

theorem Ready.latched_served {p : Port} {s : State} (hs : Ready p s) (pk : SetupPacket) :
    latched (Machine.served p pk s) p = pk := by
  rw [latched, hs.swOf_served, decSetup_encSetup]

/-- A request row latches its packet, and its handler chooses its work. -/
theorem reaches_served (p : Port) (pk : SetupPacket) (s : State) (h : Handler) :
    Reaches 2 [.latch p (encSetup pk), .request p h] (setRet .nothing s) (requestTasks p (served p pk s) h)
      (served p pk s) := reaches_latch p pk (setRet .nothing s) h

/-- A request row that comes, within its turn, to work that is done to its end. -/
theorem Ready.row {p : Port} {pk : SetupPacket} {i : Instr} {h : Handler} {ts : List Task} {k n : Nat} {s u t : State}
    (hs : Ready p s) (hi : Serves i p pk h)
    (hr : Reaches k (requestTasks p (Machine.served p pk s) h) (Machine.served p pk s) ts u) (hd : Done n ts u t)
    (hn : k + n + 2 ≤ turnLength s) : exec i s = .next t :=
  hs.turn hi (.after ((reaches_served p pk s h).trans hr) hd) (by omega)

/-- A request row that comes to the step that another instruction begins with. -/
theorem Ready.rowContinues {p : Port} {pk : SetupPacket} {i j : Instr} {h : Handler} {tj : Task} {k : Nat} {s : State}
    (hs : Ready p s) (hi : Serves i p pk h) (hj : exec j = onPort p (startMain [tj]))
    (hr : Reaches k (requestTasks p (Machine.served p pk s) h) (Machine.served p pk s) [tj] (Machine.served p pk s)) :
    Continues i j (2 + k) s (Machine.served p pk s) :=
  hs.continues hi hj (hs.served pk).1 rfl ((reaches_served p pk s h).trans hr)

/-- A request row whose handler rejects the packet (R196). -/
theorem Undisturbed.rowRejects {p : Port} {pk : SetupPacket} {i : Instr} {h : Handler} {need : Nat} {s : State}
    (hs : Undisturbed p s need) (hi : Serves i p pk h)
    (hts : requestTasks p (served p pk s) h = [.stallControlRequest p]) (hn : 6 ≤ need) :
    exec i s = .next (afterStall p (served p pk s)) :=
  hs.1.row hi (.of_eq hts _) (done_stall p _) (hn.trans hs.2)

/-- A request row that sends a reply: the way of SEND_RESPONSE, and the state that a reply of one packet leaves (R197). -/
theorem Ready.rowReplies {p : Port} {pk : SetupPacket} {i : Instr} {h : Handler} {bytes : List Byte} {k : Nat} {s : State}
    (hs : Ready p s) (hi : Serves i p pk h)
    (hr : Reaches k (requestTasks p (Machine.served p pk s) h) (Machine.served p pk s) [.sendResponse p bytes]
      (Machine.served p pk s)) :
    Continues i (.sendResponse p bytes) (2 + k) s (Machine.served p pk s) ∧
      (OnePacket p bytes (Machine.served p pk s) → (bytes.take pk.length.toNat).length + k + 16 ≤ turnLength s →
        exec i s = .next (afterResponse p bytes (Machine.served p pk s))) := by
  refine ⟨hs.rowContinues hi rfl hr, fun hone hn => ?_⟩
  have hreply := done_response hone (hs.served pk).lt_hw
  rw [replyBytes, hs.latched_served] at hreply
  exact hs.row hi hr hreply (by omega)

/-- A request row that does its work and then sends the status packet (R195). -/
theorem Ready.rowAcks {p : Port} {pk : SetupPacket} {i : Instr} {h : Handler} {k : Nat} {s u : State} (hs : Ready p s)
    (hi : Serves i p pk h) (hdir : directionOf pk = .hostToDevice)
    (hr : Reaches k (requestTasks p (Machine.served p pk s) h) (Machine.served p pk s) [.ackStatusStage p] u)
    (hlen : u.hw.length = s.hw.length) (hu : latched u p = pk) (hn : k + 9 ≤ turnLength s) :
    exec i s = .next (afterStatusIn p u) :=
  hs.row hi hr (done_statusIn (hlen ▸ hs.lt_hw) (hu ▸ hdir)) hn

end Sys2Proof.Machine
end

section
/-! PROOFS. O42 and O46: the engine takes a SETUP packet and an OUT packet (44_control_engine.md R192, R213). Each is a READ
(`reaches_read`) between assignments; what is assigned before the READ may as well be assigned after it (`afterRead_updSw`). -/

namespace Sys2Proof.Machine

/-- READ looks at no register of the pipe: an assignment that leaves the overflow counter alone commutes with it. -/
theorem afterRead_updSw {g : SwPort → SwPort}
    (hg : ∀ (u : SwPort) (n : Nat), { g u with ctrReadOverflow := (g u).ctrReadOverflow + n }
      = g { u with ctrReadOverflow := u.ctrReadOverflow + n })
    (p : Port) (f : ReadFifo) (len : Nat) (s : State) :
    afterRead p f len (updSw p g s) = updSw p g (afterRead p f len s) := by
  unfold afterRead
  rw [← updSw_updHw, updSw_updSw, updSw_updSw]
  exact updSw_congr (hg _ _)

/-- Bytes read and bytes dropped are all the bytes there were. -/
theorem length_take_add_sub (l : List Byte) (n : Nat) : (l.take n).length + (l.length - n) = l.length := by
  rw [List.length_take]
  omega

/-! ## CTE_RECEIVE_CONTROL (R192) -/

/-- What CTE_RECEIVE_CONTROL assigns before it reads (R192). -/
def setupBegun (u : SwPort) : SwPort :=
  { u with cp := .setupReceived, deferredAddress := none, rxBuf := [], rxTotal := 0 }

/-- CTE_RECEIVE_CONTROL, its read included. -/
theorem reaches_setupRead (p : Port) (s : State) :
    Reaches (2 * (hwOf s p).epcFifo.length + 7) [.cteReceiveControl p] (setRet .nothing s)
      (setupReadTasks p ((hwOf s p).epcFifo.take 8)) (afterSetupRead p s) := by
  have hassigned : swWrite p (.rxTotal 0) (swWrite p (.rxBuf []) (swWrite p (.deferredAddress none)
      (swWrite p (.cp .setupReceived) (setRet .nothing s)))) = updSw p setupBegun (setRet .nothing s) := by
    simp only [swWrite, updSw_updSw]
    rfl
  have hassign : Reaches 5 [.cteReceiveControl p] (setRet .nothing s) [.readQuery p .ctrl 8 [] 0 .setup]
      (updSw p setupBegun (setRet .nothing s)) := hassigned ▸ fun _ _ => rfl
  have hread := reaches_read p .ctrl 8 .setup (updSw p setupBegun (setRet .nothing s))
  rw [afterRead_updSw (g := setupBegun) (fun _ _ => rfl)] at hread
  rw [show 2 * (hwOf s p).epcFifo.length + 7 = 5 + (2 * (hwOf s p).epcFifo.length + 2) by omega]
  exact hassign.trans hread

/-- Settles O42: after the read the packet is dropped in two steps, or latched in one and dispatched. -/
theorem engineReceiveControl : Obligations.EngineReceiveControl := by
  intro p s hs
  have hread := reaches_setupRead p s
  refine ⟨fun hshort hlen => ?dropped, fun x more hfifo => ?latched⟩
  case dropped =>
    have hdrop : Reaches 2 [.log p .setupDropped, .sw p (.cp .idle)] (afterSetupRead p s) []
        (swWrite p (.cp .idle) (logPort p .setupDropped (afterSetupRead p s))) := fun _ _ => rfl
    rw [setupReadTasks, if_pos (by simpa using hshort)] at hread
    rw [swWrite, logPort, updSw_updSw] at hdrop
    exact hs.turn rfl (.ofReaches (hread.trans hdrop)) hlen
  case latched =>
    have htake : (hwOf s p).epcFifo.take 8 = [x.x0, x.x1, x.x2, x.x3, x.x4, x.x5, x.x6, x.x7] := by simp [hfifo]
    have hlatch : Reaches 1 [.latch p x, .dispatch p] (afterSetupRead p s) [.dispatch p]
        (setRet .nothing (afterSetupLatched p x s)) := Reaches.head (next := []) rfl
    have hp : portExists p (afterSetupLatched p x s) = true := by
      simpa [portExists_iff, afterSetupLatched, afterSetupRead, afterRead] using portExists_iff.1 hs.1
    rw [htake] at hread
    exact hs.continues rfl rfl hp rfl (hread.trans hlatch)

/-! ## CTE_RECEIVE_PACKET (R213) -/

/-- A value of cp in which no OUT packet is expected. -/
theorem receivePacketTasks_unexpected {p : Port} {s : State} (hout : (swOf s p).cp ≠ .statusOut)
    (hdata : (swOf s p).cp ≠ .dataOut) : receivePacketTasks p s = [.readQuery p .out 0 [] 0 .unexpected] := by
  unfold receivePacketTasks
  split
  case h_1 h => exact absurd h hout
  case h_2 h => exact absurd h hdata
  all_goals rfl

/-- The OUT packet is read, and what follows the read is chosen. -/
theorem reaches_packetRead {p : Port} {s : State} {len : Nat} {r : ReadRet}
    (h : receivePacketTasks p s = [.readQuery p .out len [] 0 r]) :
    Reaches (2 * (hwOf s p).outFifo.length + 3) [.receivePacket p] s
      (readReturnTasks p (afterRead p .out len s) ((hwOf s p).outFifo.take len) ((hwOf s p).outFifo.length - len) r)
      (readResult ((hwOf s p).outFifo.take len) ((hwOf s p).outFifo.length - len) r (afterRead p .out len s)) := by
  have hcase : Reaches 1 [.receivePacket p] s [.readQuery p .out len [] 0 r] s := h ▸ Reaches.step rfl
  rw [show 2 * (hwOf s p).outFifo.length + 3 = 1 + (2 * (hwOf s p).outFifo.length + 2) by omega]
  exact hcase.trans (reaches_read p .out len r s)

/-- A field that an update does not write. -/
theorem swOf_updSw_field {α : Type} (π : SwPort → α) {f : SwPort → SwPort} (h : ∀ u, π (f u) = π u) (p q : Port)
    (s : State) : π (swOf (updSw p f s) q) = π (swOf s q) := by
  rw [swOf_updSw]
  split
  case isTrue hq => rw [h, hq.1]
  case isFalse => rfl

theorem rxBuf_afterRead (p q : Port) (f : ReadFifo) (len : Nat) (s : State) :
    (swOf (afterRead p f len s) q).rxBuf = (swOf s q).rxBuf :=
  swOf_updSw_field SwPort.rxBuf (by intro; rfl) ..

theorem rxTotal_afterRead (p q : Port) (f : ReadFifo) (len : Nat) (s : State) :
    (swOf (afterRead p f len s) q).rxTotal = (swOf s q).rxTotal :=
  swOf_updSw_field SwPort.rxTotal (by intro; rfl) ..

/-- What CTE_RECEIVE_PACKET assigns in DataOut, in the values it has read (R213). -/
theorem afterDataOutRead_eq (p : Port) (s : State) :
    afterDataOutRead p s = swWrite p (.rxTotal ((swOf s p).rxTotal + (hwOf s p).outFifo.length))
      (swWrite p (.rxBuf ((swOf s p).rxBuf ++ (hwOf s p).outFifo.take (s.cfg.rxBufLen - (swOf s p).rxBuf.length)))
        (afterRead p .out (s.cfg.rxBufLen - (swOf s p).rxBuf.length) (setRet .nothing s))) := by
  rw [swWrite, swWrite, updSw_updSw]
  refine updSw_congr ?_
  dsimp only
  rw [rxBuf_afterRead, rxTotal_afterRead]
  rfl

/-- In DataOut: the bytes are stored and counted, up to the test that ends the stage. -/
theorem reaches_dataOutRead {p : Port} {s : State} (hcp : (swOf s p).cp = .dataOut) :
    Reaches (2 * (hwOf s p).outFifo.length + 5) [.receivePacket p] (setRet .nothing s)
      [.receiveDecide p (hwOf s p).outFifo.length] (afterDataOutRead p s) := by
  have hcase : receivePacketTasks p (setRet .nothing s)
      = [.readQuery p .out (s.cfg.rxBufLen - (swOf s p).rxBuf.length) [] 0 .dataOut] := by
    rw [receivePacketTasks, swOf_setRet, hcp]
    rfl
  have hread := reaches_packetRead hcase
  have hassign (u : State) (bytes : List Byte) (n k : Nat) :
      Reaches 2 [.sw p (.rxBuf bytes), .sw p (.rxTotal n), .receiveDecide p k] u [.receiveDecide p k]
        (swWrite p (.rxTotal n) (swWrite p (.rxBuf bytes) u)) := fun _ _ => rfl
  rw [readReturnTasks, dataOutReadTasks, rxBuf_afterRead, rxTotal_afterRead, Nat.add_assoc, length_take_add_sub] at hread
  rw [afterDataOutRead_eq]
  exact hread.trans (hassign _ _ _ _)

theorem latched_afterDataOutRead (p : Port) (s : State) : latched (afterDataOutRead p s) p = latched s p :=
  (latched_updSw _ _ _ _ (by intro; rfl)).trans (latched_updSw _ _ _ _ (by intro; rfl))

theorem speed_afterDataOutRead (p : Port) (s : State) : (swOf (afterDataOutRead p s) p).speed = (swOf s p).speed :=
  (swOf_updSw_field SwPort.speed (by intro; rfl) ..).trans (swOf_updSw_field SwPort.speed (by intro; rfl) ..)

theorem rxTotal_afterDataOutRead {p : Port} {s : State} (hp : p < s.sw.length) :
    (swOf (afterDataOutRead p s) p).rxTotal = (swOf s p).rxTotal + (hwOf s p).outFifo.length := by
  rw [afterDataOutRead_eq, swWrite, swOf_updSw_self]
  simpa [swWrite, afterRead] using hp

/-- The test that ends the data stage (R213). -/
theorem receiveDecideTasks_ends {p : Port} {s : State} (hp : p < s.sw.length) (h : DataStageEnds p s) :
    receiveDecideTasks p (afterDataOutRead p s) (hwOf s p).outFifo.length
      = clearRxTasks p ++ runTypeHookTasks p (afterDataOutRead p s) (swOf (afterDataOutRead p s) p).rxBuf := by
  rw [receiveDecideTasks, latched_afterDataOutRead, rxTotal_afterDataOutRead hp, speed_afterDataOutRead]
  exact if_pos h

theorem receiveDecideTasks_goesOn {p : Port} {s : State} (hp : p < s.sw.length) (h : ¬DataStageEnds p s) :
    receiveDecideTasks p (afterDataOutRead p s) (hwOf s p).outFifo.length = [.call p (.outPrime 0)] := by
  rw [receiveDecideTasks, latched_afterDataOutRead, rxTotal_afterDataOutRead hp, speed_afterDataOutRead]
  exact if_neg h

theorem reaches_receiveDecide (p : Port) (n : Nat) (s : State) :
    Reaches 1 [.receiveDecide p n] s (receiveDecideTasks p s n) s := Reaches.step rfl

/-- In DataOut, where the stage ends: the receive buffer is emptied, and the bytes are the hook's (R213). -/
theorem reaches_stageEnd {p : Port} {s : State} (hp : p < s.sw.length) (hcp : (swOf s p).cp = .dataOut)
    (hends : DataStageEnds p s) :
    Reaches (2 * (hwOf s p).outFifo.length + 8) [.receivePacket p] (setRet .nothing s)
      (runTypeHookTasks p (afterDataOutRead p s) (swOf (afterDataOutRead p s) p).rxBuf)
      (updSw p (fun u => { u with rxBuf := [], rxTotal := 0 }) (afterDataOutRead p s)) := by
  have hdecide := reaches_receiveDecide p (hwOf s p).outFifo.length (afterDataOutRead p s)
  rw [receiveDecideTasks_ends hp hends] at hdecide
  have hclear (ts : List Task) (u : State) :
      Reaches 2 (clearRxTasks p ++ ts) u ts (swWrite p (.rxTotal 0) (swWrite p (.rxBuf []) u)) := fun _ _ => rfl
  have hchain := ((reaches_dataOutRead hcp).trans hdecide).trans (hclear _ _)
  rw [swWrite, swWrite, updSw_updSw] at hchain
  exact hchain

/-- Settles O46: the packet is read in every value of cp; in DataOut the test decides what follows. -/
theorem engineReceivePacket : Obligations.EngineReceivePacket := by
  intro p s hs
  obtain ⟨hready, hlen⟩ := hs
  have hp := hready.lt_sw
  refine ⟨fun hcp => ?statusOut, fun hout hdata => ?unexpected, fun hcp hends => ?goesOn, fun kind hcp hends hkind => ?hook,
    fun hcp hends htype hs => ?rejected⟩
  case statusOut =>
    have hcase : receivePacketTasks p (setRet .nothing s) = [.readQuery p .out 0 [] 0 .statusOut] := by
      rw [receivePacketTasks, swOf_setRet, hcp]
    exact hready.turn rfl (.after (reaches_packetRead hcase) (.step rfl (.nil 0 _))) (by simp only [hwOf_setRet]; omega)
  case unexpected =>
    have hcase := receivePacketTasks_unexpected (s := setRet .nothing s) hout hdata
    exact hready.turn rfl (.after (reaches_packetRead hcase) (.step rfl (.nil 0 _))) (by simp only [hwOf_setRet]; omega)
  case goesOn =>
    have hdecide := reaches_receiveDecide p (hwOf s p).outFifo.length (afterDataOutRead p s)
    rw [receiveDecideTasks_goesOn hp hends] at hdecide
    exact hready.turn rfl (.after ((reaches_dataOutRead hcp).trans hdecide) (.step rfl (.nil 0 _))) (by omega)
  case hook =>
    have hend := reaches_stageEnd hp hcp hends
    have hhook : hookOfType (typeOf (latched s p)) = some kind := by
      simp only [List.mem_cons, Prod.mk.injEq, List.not_mem_nil, or_false] at hkind
      rcases hkind with ⟨ht, rfl⟩ | ⟨ht, rfl⟩ <;> rw [ht] <;> rfl
    rw [runTypeHookTasks, latched_afterDataOutRead, hhook] at hend
    refine hready.continues rfl rfl ?_ rfl hend
    simpa [portExists_iff, afterDataOutRead, afterRead] using portExists_iff.1 hready.1
  case rejected =>
    have hend := reaches_stageEnd hp hcp hends
    have hhook : hookOfType (typeOf (latched s p)) = none := by
      rcases htype with ht | ht <;> rw [ht] <;> rfl
    rw [runTypeHookTasks, latched_afterDataOutRead, hhook] at hend
    exact hs.turn rfl (.after hend (done_stall p _)) le_rfl

end Sys2Proof.Machine
end

section
/-! PROOFS. O41, O44, O45 and O47: the engine's operations that read no packet and run no handler (44_control_engine.md R191,
R195 to R197, R212, R214, R217). -/

namespace Sys2Proof.Machine

/-- An operation that comes down to one write of `HW[p]`, one of `SW[p]` and entries of the trace. -/
theorem Undisturbed.writes {p : Port} {i : Instr} {ts : List Task} {n need : Nat} {s : State} (hs : Undisturbed p s need)
    (hi : exec i = onPort p (startMain ts)) {f : HwPort → HwPort} {g : SwPort → SwPort} {l : List Obs}
    (hd : Done n ts (setRet .nothing s) (writeHw p f l (updSw p g (setRet .nothing s)))) (hn : n ≤ need) :
    ∃ t : State, exec i s = .next t ∧ (∀ q : Port, q ≠ p → hwOf t q = hwOf s q ∧ swOf t q = swOf s q) ∧
      hwOf t p = f (hwOf s p) ∧ swOf t p = g (swOf s p) ∧
      t = { s with hw := t.hw, sw := t.sw, ret := .nothing, g := { s.g with obs := s.g.obs ++ l } } := by
  have ht := (Touches.updSw p g (setRet .nothing s)).trans (touches_writeHw p f l _)
  exact ⟨_, hs.turn hi hd hn, fun q hq => ⟨ht.hw q hq, ht.sw q hq⟩,
    hwOf_updHw_self (s := updSw p g (setRet .nothing s)) hs.1.lt_hw, swOf_updSw_self (s := setRet .nothing s) hs.1.lt_sw, rfl⟩

/-! ## CTE_BUS_RESET and CTE_DISCONNECT (R191, R217) -/

/-- What CTE_DISCONNECT makes of the port's bookkeeping; CTE_BUS_RESET reads the speed besides (R191, R217). -/
def swCleared (u : SwPort) : SwPort :=
  { u with
    cp := .idle, address := 0, deferredAddress := none, pendingTxAck := false, configValue := 0, remoteWakeup := false,
    rxBuf := [], rxTotal := 0 }

/-- Address 0 in both registers (R191, R217). -/
def hwUnaddressed (h : HwPort) : HwPort := { h with epcAddress := 0, outAddress := 0 }

theorem updSw_writeHw (p q : Port) (g : SwPort → SwPort) (f : HwPort → HwPort) (l : List Obs) (s : State) :
    updSw q g (writeHw p f l s) = writeHw p f l (updSw q g s) := rfl

theorem speed_hwUnaddressed (p : Port) (l : List Obs) (s : State) :
    (hwOf (writeHw p hwUnaddressed l s) p).speed = (hwOf s p).speed := by
  change (hwOf (updHw p hwUnaddressed s) p).speed = _
  rw [hwOf_updHw]
  split <;> rfl

theorem reaches_cteBusReset (p : Port) (s : State) : Reaches 12 [.cteBusReset p] s []
    (writeHw p hwUnaddressed [.addrWrite p 0] (updSw p (fun u => { swCleared u with speed := (hwOf s p).speed }) s)) := by
  have haddress : Reaches 4 [.cteBusReset p] s ((cteBusResetTasks p).drop 3)
      (writeHw p hwUnaddressed [.addrWrite p 0] (swWrite p (.address 0) (swWrite p (.cp .idle) s))) := fun _ _ => rfl
  have hrest (u : State) : Reaches 8 ((cteBusResetTasks p).drop 3) u []
      (swWrite p (.rxTotal 0) (swWrite p (.rxBuf []) (swWrite p (.remoteWakeup false) (swWrite p (.configValue 0)
        (swWrite p (.speed (hwOf u p).speed) (swWrite p (.pendingTxAck false) (swWrite p (.deferredAddress none) u))))))) :=
    fun _ _ => rfl
  have hchain := haddress.trans (hrest _)
  rw [speed_hwUnaddressed] at hchain
  simp only [swWrite, updSw_writeHw, updSw_updSw] at hchain
  exact hchain

theorem reaches_cteDisconnect (p : Port) (s : State) : Reaches 18 [.cteDisconnect p] s []
    (writeHw p (hwUnaddressed ∘ afterDisconnectSteps 8) (disconnectTrace p 8 ++ [.addrWrite p 0]) (updSw p swCleared s)) := by
  have hcall : Reaches 1 [.cteDisconnect p] s (disconnectTasks p ++ (cteDisconnectTasks p).drop 8) s := fun _ _ => rfl
  have hline := (reaches_disconnect p s 8 le_rfl).frame ((cteDisconnectTasks p).drop 8)
  have hclear (u : State) : Reaches 9 ((cteDisconnectTasks p).drop 8) u []
      (swWrite p (.rxTotal 0) (swWrite p (.rxBuf []) (swWrite p (.remoteWakeup false) (swWrite p (.configValue 0)
        (swWrite p (.pendingTxAck false) (swWrite p (.deferredAddress none)
          (writeHw p hwUnaddressed [.addrWrite p 0] (swWrite p (.address 0) (swWrite p (.cp .idle) u))))))))) :=
    fun _ _ => rfl
  have hchain := (hcall.trans hline).trans (hclear _)
  simp only [swWrite, disconnectState, updSw_writeHw, updSw_updSw, writeHw_writeHw] at hchain
  exact hchain

/-- Settles O41: each reset is one chain of assignments. -/
theorem engineResets : Obligations.EngineResets :=
  ⟨fun p _ hs => hs.writes rfl (.ofReaches (reaches_cteBusReset p _)) le_rfl,
    fun p _ hs => hs.writes rfl (.ofReaches (reaches_cteDisconnect p _)) le_rfl⟩

/-! ## The endings performed by name (R195 to R197, R212) -/

theorem directionOf_latched (s : State) (p : Port) :
    directionOf (latched s p) = if (swOf s p).x.x0.getLsbD 7 then .deviceToHost else .hostToDevice := rfl

/-- The two stall bits of endpoint 0 (R196). -/
def hwStalled (v : Bool) (h : HwPort) : HwPort :=
  { h with stallIn := setEpBit h.stallIn 0 v, stallOut := setEpBit h.stallOut 0 v }

theorem stallBit_hwStalled (v : Bool) (h : HwPort) (d : Dir) (e : EpNo) :
    stallBit (hwStalled v h) d e = if e = 0 then v else stallBit h d e := by
  cases d <;> exact epBit_setEpBit ..

theorem afterStall_eq (p : Port) (s : State) : afterStall p s = writeHw p (hwStalled (epWrite s.cfg 0 true))
    [.stallSet p .inp 0, .stallSet p .out 0] (updSw p (fun u => { u with cp := .idle }) s) := by
  simp only [afterStall, observe, writeHw, List.append_assoc, updSw_updHw]
  rfl

/-- Endpoint 0 primed for OUT (R212). -/
def hwPrimed (v : Bool) (h : HwPort) : HwPort := { h with outPrimed := setEpBit h.outPrimed 0 v }

theorem afterDataOutBegin_eq (p : Port) (s : State) : afterDataOutBegin p s = writeHw p (hwPrimed (epWrite s.cfg 0 true))
    [.outPrime p 0] (updSw p (fun u => { u with rxBuf := [], rxTotal := 0, cp := .dataOut }) s) := rfl

/-- Settles O44. -/
theorem handlerEndings : Obligations.HandlerEndings := by
  refine ⟨fun p s hs => ⟨fun hbit => ?statusOut, fun hbit => ?statusIn⟩, fun p s hs => ?stall, fun p s hs => ?dataOut⟩
  case statusOut =>
    have hdir : directionOf (latched (setRet .nothing s) p) = .deviceToHost := by
      rw [latched_setRet, directionOf_latched, hbit, if_pos rfl]
    exact afterAck_of_deviceToHost hdir ▸ hs.turn rfl (done_ack hs.1.lt_hw) le_rfl
  case statusIn =>
    have hdir : directionOf (latched (setRet .nothing s) p) = .hostToDevice := by
      rw [latched_setRet, directionOf_latched, hbit]
      rfl
    exact hs.turn rfl (done_statusIn hs.1.lt_hw hdir) le_rfl
  case stall =>
    obtain ⟨t, ht, hothers, hhw, hsw, hrest⟩ := hs.writes (i := .stallControlRequest p) rfl
      (afterStall_eq p (setRet .nothing s) ▸ done_stall p _) le_rfl
    exact ⟨t, ht, hothers, by rw [hhw]; rfl, fun d e => by rw [hhw]; exact stallBit_hwStalled .., hsw, hrest⟩
  case dataOut =>
    obtain ⟨t, ht, hothers, hhw, hsw, hrest⟩ := hs.writes (i := .dataOutBegin p) rfl
      (afterDataOutBegin_eq p (setRet .nothing s) ▸ done_dataOutBegin p _) le_rfl
    exact ⟨t, ht, hothers, by rw [hhw]; rfl, fun e => by rw [hhw]; exact epBit_setEpBit .., hsw, hrest⟩

/-- Settles O45: `reaches_response`, in the direction that a reply has. -/
theorem sendResponseOnePacket : Obligations.SendResponseOnePacket := by
  intro p bytes s hdir hone hs
  have hturn := hs.turn (i := .sendResponse p bytes) rfl (done_response (s := setRet .nothing s) hone hs.1.lt_hw) le_rfl
  have hack (u : State) (hu : latched u p = latched s p) : afterAck p u = afterStatusOut p u :=
    afterAck_of_deviceToHost (hu ▸ hdir)
  rw [afterResponse, hack (setRet .nothing s) rfl, hack (afterWrite p 0 _ (setRet .nothing s)) (latched_afterWrite ..)] at hturn
  exact ⟨fun hz => hturn.trans (by rw [latched_setRet, if_pos hz]),
    fun hnz => hturn.trans (by rw [latched_setRet, if_neg hnz]; rfl)⟩

/-! ## CTE_SEND_COMPLETE (R214) -/

theorem sendCompleteTasks_of_not_statusIn {p : Port} {s : State} (h : (swOf s p).cp ≠ .statusIn) :
    sendCompleteTasks p s = [] := by
  unfold sendCompleteTasks
  split
  case h_1 h' => exact absurd h' h
  all_goals rfl

/-- Settles O47: each case of the event. -/
theorem engineSendComplete : Obligations.EngineSendComplete := by
  intro p s hs
  have hcase (ts : List Task) (h : sendCompleteTasks p (setRet .nothing s) = ts) {t : State}
      (hd : Done 4 ts (setRet .nothing s) t) : exec (.cteSendComplete p) s = .next t :=
    hs.turn (ts := [.sendComplete p]) rfl (.step rfl (by rw [List.append_nil, h]; exact hd)) le_rfl
  refine ⟨fun hcp hdef => ?idle, fun a hcp hdef hack => ?written, fun hcp hdef hack => ?ignored, fun hcp => ?other⟩
  case idle =>
    exact hcase [.sw p (.cp .idle)] (by simp only [sendCompleteTasks, swOf_setRet, hcp, hdef]) (.step rfl (.nil 3 _))
  case written =>
    have htasks : sendCompleteTasks p (setRet .nothing s)
        = [.call p (.setAddress a), .sw p (.address a), .sw p (.deferredAddress none), .sw p (.cp .idle)] := by
      simp only [sendCompleteTasks, swOf_setRet, hcp, hdef, hack]
      rfl
    have hwrites : Reaches 4 [.call p (.setAddress a), .sw p (.address a), .sw p (.deferredAddress none), .sw p (.cp .idle)]
        (setRet .nothing s) [] (swWrite p (.cp .idle) (swWrite p (.deferredAddress none) (swWrite p (.address a)
          (opSetAddress p a (setRet .nothing s))))) := fun _ _ => rfl
    simp only [swWrite, opSetAddress, updSw_observe, updSw_updHw, updSw_updSw] at hwrites
    exact hcase _ htasks (.ofReaches hwrites)
  case ignored =>
    obtain ⟨a, ha⟩ := Option.ne_none_iff_exists'.1 hdef
    exact hcase [] (by simp only [sendCompleteTasks, swOf_setRet, hcp, ha, hack, if_true]) (.nil 4 _)
  case other => exact hcase [] (sendCompleteTasks_of_not_statusIn hcp) (.nil 4 _)

end Sys2Proof.Machine
end

section
/-! PROOFS. O43 and O48: CTE_DISPATCH and RUN_HOOK (44_control_engine.md R193, R211): each is one step that chooses the work. -/

namespace Sys2Proof.Machine

/-! ## CTE_DISPATCH (R193) -/

/-- The row that a packet is read as names the packet's handler (30_encoding.md R99). -/
theorem serves_requestRow (p : Port) (pk : SetupPacket) :
    Serves (requestInstr (requestRow pk) p pk) p pk (selectHandler pk) :=
  rowHandler_of_meetsRow (meetsRow_requestRow pk) ▸ serves_requestInstr (requestRow pk) p pk

theorem afterLatch_latched (p : Port) (s : State) : afterLatch p (latched s p) s = s :=
  updSw_id (by rw [latched, encSetup_decSetup])

/-- Two turns whose first step comes to the same work in the same state. -/
theorem startMain_congr {t u : Task} {ts us vs : List Task} {s v : State}
    (ht : Reaches 1 (t :: ts) (setRet .nothing s) vs v) (hu : Reaches 1 (u :: us) (setRet .nothing s) vs v)
    (hlen : turnLength s ≠ 0) : startMain (t :: ts) s = startMain (u :: us) s := by
  obtain ⟨n, hn⟩ := Nat.exists_eq_succ_of_ne_zero hlen
  have hrun : runTasks (n + 1) (t :: ts) (setRet .nothing s) = runTasks (n + 1) (u :: us) (setRet .nothing s) := by
    simpa using (ht n []).trans (hu n []).symm
  rw [startMain, startMain, hn, hrun]

/-- The requests of another type than Standard and without a hook of their type are rejected (R210). -/
theorem reqClassOrVendorTasks_noHook {p : Port} {s : State}
    (h : (hookOfType (typeOf (latched s p))).bind (hookOf s.cfg.hooks) = none) :
    reqClassOrVendorTasks p s = [.stallControlRequest p] := by
  simp only [reqClassOrVendorTasks, h]

/-- Settles O43: after one step both stand before the handler of the latched packet. -/
theorem dispatchSelectsRow : Obligations.DispatchSelectsRow := by
  intro p s hp hlen
  have hdispatch : Reaches 1 [.dispatch p] (setRet .nothing s) [.request p (selectHandler (latched s p))]
      (setRet .nothing s) := Reaches.step rfl
  have hlatch : Reaches 1 [.latch p (encSetup (latched s p)), .request p (selectHandler (latched s p))] (setRet .nothing s)
      [.request p (selectHandler (latched s p))] (setRet .nothing s) := by
    have hstep : taskStep (.latch p (encSetup (latched s p))) (setRet .nothing s) = goOn [] (setRet .nothing s) :=
      congrArg (goOn []) (afterLatch_latched p (setRet .nothing s))
    exact Reaches.head hstep
  obtain ⟨t, ht⟩ := startMain_answers [.dispatch p] s
  have hexec : exec (.cteDispatch p) s = .next t := (onPort_exists hp).trans ht
  refine ⟨t, hexec, ?row, fun hpk hhook hs => ?vendor⟩
  case row => rw [serves_requestRow, onPort_exists hp, ← ht, startMain_congr hdispatch hlatch hlen]
  case vendor =>
    have hvendor : requestTasks p (setRet .nothing s) (selectHandler (latched s p)) = [.stallControlRequest p] := by
      rw [hpk]
      refine reqClassOrVendorTasks_noHook ?_
      rw [latched_setRet, hpk]
      exact hhook
    have hrequest : Reaches 1 [.request p (selectHandler (latched s p))] (setRet .nothing s) _ (setRet .nothing s) :=
      Reaches.step rfl
    rw [hvendor] at hrequest
    have hturn := hs.turn (i := .cteDispatch p) rfl (.after (hdispatch.trans hrequest) (done_stall p _)) le_rfl
    exact Host.Outcome.next.inj (hexec.symm.trans hturn)

/-! ## RUN_HOOK (R211) -/

section
variable {p : Port} {kind : HookKind} {k : Byte} {data : List Byte} {s : State}

theorem runHookTasks_absent (h : hookOf s.cfg.hooks kind = none) :
    runHookTasks p s kind k data = [.stallControlRequest p] := by
  rw [runHookTasks, h]

variable {h : Hook} (hhook : hookOf s.cfg.hooks kind = some h)
include hhook

theorem runHookTasks_reject (hresult : hookResult h ⟨p, latched s p, k, data⟩ = .reject) :
    runHookTasks p s kind k data = [.stallControlRequest p] := by
  simp only [runHookTasks, hhook, hresult]

theorem runHookTasks_respond_deviceToHost {bytes : List Byte}
    (hresult : hookResult h ⟨p, latched s p, k, data⟩ = .respond bytes)
    (hdir : directionOf (latched s p) = .deviceToHost) : runHookTasks p s kind k data = [.sendResponse p bytes] := by
  simp only [runHookTasks, hhook, hresult, hdir]

theorem runHookTasks_respond_hostToDevice {bytes : List Byte}
    (hresult : hookResult h ⟨p, latched s p, k, data⟩ = .respond bytes)
    (hdir : directionOf (latched s p) = .hostToDevice) : runHookTasks p s kind k data = [.ackStatusStage p] := by
  simp only [runHookTasks, hhook, hresult, hdir]

theorem runHookTasks_consumed {ops : List PortOp} {c : PipeState}
    (hresult : hookResult h ⟨p, latched s p, k, data⟩ = .consumed ops)
    (hc : directionOf (latched s p) = .deviceToHost ∧ c = .statusOut ∨
      directionOf (latched s p) = .hostToDevice ∧ c = .statusIn) :
    runHookTasks p s kind k data = ops.map (Task.call p) ++ [.sw p (.cp c)] := by
  rcases hc with ⟨hdir, rfl⟩ | ⟨hdir, rfl⟩ <;> simp only [runHookTasks, hhook, hresult, hdir]

end

theorem reaches_runHook (p : Port) (kind : HookKind) (k : Byte) (data : List Byte) (s : State) :
    Reaches 1 [.runHook p kind k data] s (runHookTasks p s kind k data) s := Reaches.step rfl

/-- A turn whose first step chooses the work of the rest. -/
theorem Ready.turnOf {p : Port} {i : Instr} {t : Task} {ts : List Task} {n : Nat} {s : State} (hs : Ready p s)
    (hi : exec i = onPort p (startMain [t])) (ht : Reaches 1 [t] (setRet .nothing s) ts (setRet .nothing s))
    (hlen : turnLength s = n + 1) : exec i s = turnOf n ts s := by
  have hrun := ht n []
  rw [List.append_nil, List.append_nil] at hrun
  rw [hi, onPort_exists hs.1, startMain, if_pos hs.2, hlen, hrun, Machine.turnOf]

/-- Settles O48: each result of the hook. -/
theorem runHook : Obligations.RunHook := by
  intro p kind k data s
  have hstep : Reaches 1 [.runHook p kind k data] (setRet .nothing s) (runHookTasks p s kind k data) (setRet .nothing s) :=
    reaches_runHook p kind k data (setRet .nothing s)
  refine ⟨fun hnone hs => ?absent, fun h hhook => ⟨fun hresult hs => ?reject,
    fun bytes hresult => ⟨fun hdir hs => ?acked, fun hdir hs => ⟨?sent, fun hone hlen => ?sentOne⟩⟩,
    fun ops n c hresult hs hlen hc => ?consumed⟩⟩
  case absent =>
    rw [runHookTasks_absent hnone] at hstep
    exact hs.turn rfl (.after hstep (done_stall p _)) le_rfl
  case reject =>
    rw [runHookTasks_reject hhook hresult] at hstep
    exact hs.turn rfl (.after hstep (done_stall p _)) le_rfl
  case acked =>
    rw [runHookTasks_respond_hostToDevice hhook hresult hdir] at hstep
    exact hs.turn rfl (.after hstep (done_statusIn hs.1.lt_hw hdir)) le_rfl
  case sent =>
    rw [runHookTasks_respond_deviceToHost hhook hresult hdir] at hstep
    exact hs.continues rfl rfl hs.1 rfl hstep
  case sentOne =>
    rw [runHookTasks_respond_deviceToHost hhook hresult hdir] at hstep
    exact hs.turn rfl (.after hstep (done_response hone hs.lt_hw)) (by
      change 1 + ((replyBytes p s bytes).length + 14) ≤ _
      omega)
  case consumed =>
    have hstatus : directionOf (latched s p) = .deviceToHost ∧ c = .statusOut ∨
        directionOf (latched s p) = .hostToDevice ∧ c = .statusIn := by
      cases hdir : directionOf (latched s p) <;> rw [hdir] at hc <;> simp [hc]
    rw [runHookTasks_consumed hhook hresult hstatus] at hstep
    have hturn := hs.turnOf (i := .runHook p kind k data) rfl hstep hlen
    refine ⟨hturn, fun hone hn => ?oneStep, fun hops hdir hn => ?zlp⟩
    case oneStep =>
      have hcp (u : State) : Reaches 1 [.sw p (.cp c)] u [] (updSw p (fun w => { w with cp := c }) u) := Reaches.step rfl
      exact hturn.trans (turnOf_run ((reaches_ops p ops hone _).seq (hcp _)) hn)
    case zlp =>
      obtain ⟨j, hj, hzlp⟩ := reaches_statusIn p (setRet .nothing s) hs.lt_hw
      rw [hdir] at hc
      subst hops hc
      exact hturn.trans (turnOf_run hzlp (by omega))

end Sys2Proof.Machine
end

section
/-! PROOFS. O53 to O59: the request rows (44_control_engine.md R198 to R210). For each handler, which work it chooses for which
packet; what that work leaves is said by the lemmas of the rows (`Ready.row` and its forms). -/

namespace Sys2Proof.Machine

/-! ## Class and vendor requests (R203, R208 to R211) -/

theorem requestTasks_rejected {h : Handler} (hh : h ∈ [Handler.setDescriptor, .synchFrame, .reserved]) (p : Port) (s : State) :
    requestTasks p s h = [.stallControlRequest p] := by
  simp only [List.mem_cons, List.not_mem_nil, or_false] at hh
  rcases hh with rfl | rfl | rfl <;> rfl

/-- A packet whose type has no hook, or no hook that is there (R210). -/
theorem no_hook {hooks : Hooks} {pk : SetupPacket} (h : typeOf pk = .standard ∨ typeOf pk = .reserved ∨
    (typeOf pk = .classType ∧ hooks.classHook = none) ∨ (typeOf pk = .vendor ∧ hooks.vendorHook = none)) :
    (hookOfType (typeOf pk)).bind (hookOf hooks) = none := by
  rcases h with ht | ht | ⟨ht, hnone⟩ | ⟨ht, hnone⟩ <;> rw [ht]
  case inr.inr.inl | inr.inr.inr => exact hnone
  all_goals rfl

/-- Settles O53. -/
theorem rejectedRequests : Obligations.RejectedRequests := by
  intro p pk s hs
  refine ⟨fun i hi => ?always, fun htype i hi => ?noHook⟩
  case always =>
    obtain ⟨row, hrow, rfl⟩ := List.mem_map.1 (show i ∈ [RequestRow.setDescriptor, .synchFrame, .reservedStd2, .reservedStd4,
      .reservedType3].map (requestInstr · p pk) from hi)
    have hhandler : ∀ row ∈ [RequestRow.setDescriptor, .synchFrame, .reservedStd2, .reservedStd4, .reservedType3],
        rowHandler row ∈ [Handler.setDescriptor, .synchFrame, .reserved] := by decide
    exact hs.rowRejects (serves_requestInstr row p pk) (requestTasks_rejected (hhandler row hrow) p _) (by decide)
  case noHook =>
    have hserves : Serves i p pk .classOrVendor := serves_of_mem (rows := [.classOrVendorStd13, .classOrVendorStd14To15,
      .classOrVendorStd16To31, .classOrVendorStd32To63, .classOrVendorStd64To127, .classOrVendorStd128To255,
      .classOrVendorClass, .classOrVendorVendor]) (by decide) hi
    refine hs.rowRejects hserves (reqClassOrVendorTasks_noHook ?_) (by decide)
    rw [hs.1.latched_served]
    exact no_hook htype

section
variable {p : Port} {pk : SetupPacket} {i : Instr} {handler : Handler} {kind : HookKind} {k : Byte} {h : Hook} {s : State}

/-- A row that runs a hook: its result chooses the work. -/
theorem reaches_rowHook (hts : requestTasks p (served p pk s) handler = [.runHook p kind k []]) :
    Reaches 1 (requestTasks p (served p pk s) handler) (served p pk s) (runHookTasks p (served p pk s) kind k [])
      (served p pk s) := hts ▸ reaches_runHook p kind k [] _

variable (hs : Ready p s) (hi : Serves i p pk handler)
  (hts : requestTasks p (Machine.served p pk s) handler = [.runHook p kind k []]) (hhook : hookOf s.cfg.hooks kind = some h)
include hs hi hts hhook

theorem Ready.rowHookRejects (hresult : hookResult h ⟨p, pk, k, []⟩ = .reject) (hn : 7 ≤ turnLength s) :
    exec i s = .next (afterStall p (Machine.served p pk s)) := by
  have hr := reaches_rowHook hts
  rw [runHookTasks_reject (s := Machine.served p pk s) hhook (by rw [hs.latched_served, hresult])] at hr
  exact hs.row hi hr (done_stall p _) hn

theorem Ready.rowHookAcks {bytes : List Byte} (hresult : hookResult h ⟨p, pk, k, []⟩ = .respond bytes)
    (hdir : directionOf pk = .hostToDevice) (hn : 10 ≤ turnLength s) :
    exec i s = .next (afterStatusIn p (Machine.served p pk s)) := by
  have hr := reaches_rowHook hts
  have hlatched := hs.latched_served pk
  rw [runHookTasks_respond_hostToDevice (s := Machine.served p pk s) hhook (by rw [hlatched, hresult])
    (by rw [hlatched, hdir])] at hr
  exact hs.rowAcks hi hdir hr rfl hlatched hn

theorem Ready.rowHookReplies {bytes : List Byte} (hresult : hookResult h ⟨p, pk, k, []⟩ = .respond bytes)
    (hdir : directionOf pk = .deviceToHost) (hone : OnePacket p bytes (Machine.served p pk s))
    (hn : (bytes.take pk.length.toNat).length + 17 ≤ turnLength s) :
    exec i s = .next (afterResponse p bytes (Machine.served p pk s)) := by
  have hr := reaches_rowHook hts
  have hlatched := hs.latched_served pk
  rw [runHookTasks_respond_deviceToHost (s := Machine.served p pk s) hhook (by rw [hlatched, hresult])
    (by rw [hlatched, hdir])] at hr
  exact (hs.rowReplies hi hr).2 hone (by omega)

end

/-- Settles O54: the data stage comes first; else the hook's result chooses the work. -/
theorem hookedRequests : Obligations.HookedRequests := by
  intro p pk kind h i s hi hhook
  obtain ⟨hserves, htype⟩ : Serves i p pk .classOrVendor ∧ hookOfType (typeOf pk) = some kind := by
    rcases hi with ⟨rfl, htype, rfl⟩ | ⟨rfl, htype, rfl⟩ <;> exact ⟨rfl, htype ▸ rfl⟩
  have htasks (hs : Ready p s) : requestTasks p (served p pk s) .classOrVendor
      = if directionOf pk = .hostToDevice ∧ pk.length ≠ 0 then [.dataOutBegin p] else [.runHook p kind pk.request []] := by
    simp only [requestTasks, reqClassOrVendorTasks, runTypeHookTasks, hs.latched_served, htype, Option.bind_some,
      cfg_served, hhook]
  have hruns (hs : Ready p s) (hdir : directionOf pk = .deviceToHost ∨ pk.length = 0) :
      requestTasks p (served p pk s) .classOrVendor = [.runHook p kind pk.request []] := by
    rw [htasks hs, if_neg]
    rintro ⟨hout, hlen⟩
    exact hdir.elim (fun hin => by rw [hin] at hout; cases hout) hlen
  refine ⟨fun hdir hlen hs => ?data, fun hdir hs => ?runs, fun hdir hlen hs => ⟨fun hresult => ?rejectOut,
    fun bytes hresult => ?ack⟩, fun hdir => ⟨fun hresult hs => ?rejectIn, fun bytes hresult hone hs => ?reply⟩⟩
  case data =>
    have hbegin : requestTasks p (served p pk s) .classOrVendor = [.dataOutBegin p] := by
      rw [htasks hs.1, if_pos ⟨hdir, hlen⟩]
    exact hs.1.row hserves (.of_eq hbegin _) (done_dataOutBegin p _) (by have := hs.2; omega)
  case runs => exact hs.rowContinues hserves rfl (.of_eq (hruns hs hdir) _)
  case rejectOut => exact hs.1.rowHookRejects hserves (hruns hs.1 (.inr hlen)) hhook hresult (by have := hs.2; omega)
  case ack => exact hs.1.rowHookAcks hserves (hruns hs.1 (.inr hlen)) hhook hresult hdir (by have := hs.2; omega)
  case rejectIn => exact hs.1.rowHookRejects hserves (hruns hs.1 (.inl hdir)) hhook hresult (by have := hs.2; omega)
  case reply =>
    exact hs.1.rowHookReplies hserves (hruns hs.1 (.inl hdir)) hhook hresult hdir hone (by have := hs.2; omega)

/-! ## GetStatus (R198) -/

theorem reqGetStatusTasks_rejected {p : Port} {s : State} (h : directionOf (latched s p) = .hostToDevice ∨
    recipientOf (latched s p) ∉ [Recipient.device, .interface, .endpoint]) :
    reqGetStatusTasks p s = [.stallControlRequest p] := by
  unfold reqGetStatusTasks
  dsimp only
  split
  case h_1 => rfl
  case h_2 hdir =>
    rw [hdir] at h
    split <;> simp_all

/-- Settles O55: the reply of each recipient. -/
theorem getStatusRequest : Obligations.GetStatusRequest := by
  intro p pk s
  have hserves : Serves (.reqGetStatus p pk) p pk .getStatus := rfl
  refine ⟨fun reply k hdir hs hcase => ?reply, fun hs h => ?rejected⟩
  case reply =>
    obtain ⟨j, hj, hk, hlen, hr⟩ : ∃ j ≤ 1, k = 2 + j ∧ reply.length = 2 ∧ Reaches j
        (requestTasks p (served p pk s) .getStatus) (served p pk s) [.sendResponse p reply] (served p pk s) := by
      simp only [requestTasks, reqGetStatusTasks, hs.latched_served, hdir]
      rcases hcase with ⟨hrec, rfl, rfl⟩ | ⟨hrec, rfl, rfl⟩ | ⟨hrec, rfl, rfl⟩ <;> simp only [hrec]
      case inl =>
        refine ⟨0, by decide, rfl, rfl, ?_⟩
        rw [hs.swOf_served, cfg_served]
        cases s.cfg.selfPowered <;> cases (swOf s p).remoteWakeup <;> exact Reaches.refl _ _
      case inr.inl => exact ⟨0, by decide, rfl, rfl, Reaches.refl _ _⟩
      case inr.inr => exact ⟨1, by decide, rfl, rfl, Reaches.step rfl⟩
    subst hk
    have hreplies := hs.rowReplies hserves hr
    refine ⟨hreplies.1, fun hone hn => hreplies.2 hone ?_⟩
    rw [List.length_take]
    omega
  case rejected =>
    exact hs.rowRejects hserves (reqGetStatusTasks_rejected (by rwa [hs.1.latched_served])) (by decide)

/-! ## ClearFeature and SetFeature (R199, R200) -/

theorem noDataOut_eq_true {pk : SetupPacket} (hdir : directionOf pk = .hostToDevice) (hlen : pk.length = 0) :
    noDataOut pk = true := by
  simp [noDataOut, hdir, hlen]

theorem noDataOut_eq_false {pk : SetupPacket} (h : directionOf pk = .deviceToHost ∨ pk.length ≠ 0) :
    noDataOut pk = false := by
  rcases h with h | h
  · simp [noDataOut, h]
  · rw [noDataOut, decide_eq_false h, Bool.and_false]

theorem featureSelect_eq_endpointHalt {pk : SetupPacket} : featureSelect pk = .endpointHalt ↔ pk.value = 0 := by
  unfold featureSelect
  repeat' split
  all_goals simp_all

theorem featureSelect_eq_remoteWakeup {pk : SetupPacket} : featureSelect pk = .deviceRemoteWakeup ↔ pk.value = 1 := by
  unfold featureSelect
  repeat' split
  all_goals simp_all

/-- The packet names no feature that its recipient has, or no request without a data stage (R199, R200). -/
def FeatureRejected (pk : SetupPacket) : Prop :=
  noDataOut pk = false ∨ ¬((recipientOf pk = .endpoint ∧ featureSelect pk = .endpointHalt) ∨
    (recipientOf pk = .device ∧ featureSelect pk = .deviceRemoteWakeup))

theorem featureTasks_rejected {p : Port} {s : State} (h : FeatureRejected (latched s p)) :
    reqClearFeatureTasks p s = [.stallControlRequest p] ∧ reqSetFeatureTasks p s = [.stallControlRequest p] := by
  unfold reqClearFeatureTasks reqSetFeatureTasks
  dsimp only
  cases hno : noDataOut (latched s p)
  case false => exact ⟨rfl, rfl⟩
  case true =>
    have hnone := h.resolve_left (by simp [hno])
    constructor
    all_goals
      rw [if_pos rfl]
      split
      case h_1 hrec hfeat => exact absurd (.inl ⟨hrec, hfeat⟩) hnone
      case h_2 hrec hfeat => exact absurd (.inr ⟨hrec, hfeat⟩) hnone
      case h_3 => rfl

/-- ClearFeature(EndpointHalt): unstall, then reset the toggle (R199). -/
theorem reaches_clearHalt {p : Port} {s : State} (hno : noDataOut (latched s p) = true)
    (hrec : recipientOf (latched s p) = .endpoint) (hfeat : featureSelect (latched s p) = .endpointHalt) {d : Dir} {n : EpNo}
    (hea : (d, n) = epAddrSplit (lo8 (latched s p).index)) :
    Reaches 2 (reqClearFeatureTasks p s) s [.ackStatusStage p]
      (opClearHalt p (lo8 (latched s p).index) (opUnstall p d n s)) := by
  unfold reqClearFeatureTasks
  simp only [hno, hrec, hfeat, if_true, ← hea]
  cases d <;> exact fun _ _ => rfl

/-- SetFeature(EndpointHalt): stall (R200). -/
theorem reaches_setHalt {p : Port} {s : State} (hno : noDataOut (latched s p) = true)
    (hrec : recipientOf (latched s p) = .endpoint) (hfeat : featureSelect (latched s p) = .endpointHalt) {d : Dir} {n : EpNo}
    (hea : (d, n) = epAddrSplit (lo8 (latched s p).index)) :
    Reaches 1 (reqSetFeatureTasks p s) s [.ackStatusStage p] (opStall p d n s) := by
  unfold reqSetFeatureTasks
  simp only [hno, hrec, hfeat, if_true, ← hea]
  cases d <;> exact fun _ _ => rfl

/-- DeviceRemoteWakeup of the device (R199, R200). -/
theorem reaches_remoteWakeup {p : Port} {s : State} (hno : noDataOut (latched s p) = true)
    (hrec : recipientOf (latched s p) = .device) (hfeat : featureSelect (latched s p) = .deviceRemoteWakeup) :
    Reaches 1 (reqClearFeatureTasks p s) s [.ackStatusStage p] (updSw p (fun u => { u with remoteWakeup := false }) s) ∧
    Reaches 1 (reqSetFeatureTasks p s) s [.ackStatusStage p] (updSw p (fun u => { u with remoteWakeup := true }) s) := by
  unfold reqClearFeatureTasks reqSetFeatureTasks
  simp only [hno, hrec, hfeat, if_true]
  exact ⟨fun _ _ => rfl, fun _ _ => rfl⟩

/-- Settles O56: the two features that a recipient has, in every row that serves them. -/
theorem featureRequests : Obligations.FeatureRequests := by
  intro p pk d n s hs hea
  have hready := hs.1
  have hlen : 14 ≤ turnLength s := hs.2
  have hlatched := hready.latched_served pk
  refine ⟨fun hdir hnodata hrec hvalue => ?halt, fun hdir hnodata hrec hvalue => ?wakeup, fun h i hi => ?rejected⟩
  case halt =>
    have hno := noDataOut_eq_true hdir hnodata
    have hfeat := featureSelect_eq_endpointHalt.2 hvalue
    have hclear := reaches_clearHalt (p := p) (s := served p pk s) (d := d) (n := n)
    have hset := reaches_setHalt (p := p) (s := served p pk s) (d := d) (n := n)
    rw [hlatched] at hclear hset
    refine ⟨fun i hi => ?_, fun i hi => ?_⟩
    · have hserves := serves_of_mem (rows := [.clearFeature, .clearFeatureEndpointHalt]) (h := .clearFeature) (by decide) hi
      exact hready.rowAcks hserves hdir (hclear hno hrec hfeat hea) (by simp [opClearHalt, opUnstall]) hlatched (by omega)
    · have hserves := serves_of_mem (rows := [.setFeature, .setFeatureEndpointHalt]) (h := .setFeature) (by decide) hi
      exact hready.rowAcks hserves hdir (hset hno hrec hfeat hea) (by simp [opStall]) hlatched (by omega)
  case wakeup =>
    have hno := noDataOut_eq_true hdir hnodata
    have hfeat := featureSelect_eq_remoteWakeup.2 hvalue
    have hassign := reaches_remoteWakeup (p := p) (s := served p pk s)
    rw [hlatched] at hassign
    obtain ⟨hclear, hset⟩ := hassign hno hrec hfeat
    refine ⟨fun i hi => ?_, fun i hi => ?_⟩
    · have hserves := serves_of_mem (rows := [.clearFeature, .clearFeatureDeviceRemoteWakeup]) (h := .clearFeature)
        (by decide) hi
      exact hready.rowAcks hserves hdir hclear rfl ((latched_updSw _ _ _ _ (by intro; rfl)).trans hlatched) (by omega)
    · have hserves := serves_of_mem (rows := [.setFeature, .setFeatureDeviceRemoteWakeup]) (h := .setFeature) (by decide) hi
      exact hready.rowAcks hserves hdir hset rfl ((latched_updSw _ _ _ _ (by intro; rfl)).trans hlatched) (by omega)
  case rejected =>
    have hrejected : FeatureRejected pk := by
      rw [FeatureRejected, featureSelect_eq_endpointHalt, featureSelect_eq_remoteWakeup]
      rcases h with h | h | h
      exacts [.inl (noDataOut_eq_false (.inl h)), .inl (noDataOut_eq_false (.inr h)), .inr h]
    obtain ⟨row, hrow, rfl⟩ := List.mem_map.1 (show i ∈ [RequestRow.clearFeature, .clearFeatureEndpointHalt,
      .clearFeatureDeviceRemoteWakeup, .setFeature, .setFeatureEndpointHalt, .setFeatureDeviceRemoteWakeup].map
      (requestInstr · p pk) from hi)
    have hhandler : rowHandler row = .clearFeature ∨ rowHandler row = .setFeature := by
      clear hi
      revert row
      decide
    have htasks := featureTasks_rejected (p := p) (s := served p pk s) (hlatched.symm ▸ hrejected)
    refine hs.rowRejects (serves_requestInstr row p pk) ?_ (by decide)
    rcases hhandler with hh | hh <;> rw [hh]
    exacts [htasks.1, htasks.2]

/-! ## SetAddress (R201) -/

/-- A packet that SetAddress rejects: another recipient, a direction or length of a data stage, or no address (R201). -/
theorem reqSetAddressTasks_rejected {p : Port} {s : State} (h : recipientOf (latched s p) ≠ .device ∨
    noDataOut (latched s p) = false ∨ devAddr (latched s p) = none) :
    reqSetAddressTasks p s = [.stallControlRequest p] := by
  unfold reqSetAddressTasks
  dsimp only
  split
  case isTrue hok =>
    have hnone : devAddr (latched s p) = none := (h.resolve_left (by simp [hok.1])).resolve_left (by simp [hok.2])
    rw [hnone]
  case isFalse => rfl

/-- SetAddress defers the address, then sets the flag (R201). -/
theorem reaches_setAddress {p : Port} {s : State} {a : DevAddr} (hrec : recipientOf (latched s p) = .device)
    (hno : noDataOut (latched s p) = true) (ha : devAddr (latched s p) = some a) :
    Reaches 2 (reqSetAddressTasks p s) s [.ackStatusStage p]
      (updSw p (fun u => { u with deferredAddress := some a, pendingTxAck := true }) s) := by
  have htasks : reqSetAddressTasks p s
      = [.sw p (.deferredAddress (some a)), .sw p (.pendingTxAck true), .ackStatusStage p] := by
    simp only [reqSetAddressTasks, hrec, hno, ha, and_self, if_true]
  have hassign : Reaches 2 [.sw p (.deferredAddress (some a)), .sw p (.pendingTxAck true), .ackStatusStage p] s
      [.ackStatusStage p] (swWrite p (.pendingTxAck true) (swWrite p (.deferredAddress (some a)) s)) := fun _ _ => rfl
  rw [swWrite, swWrite, updSw_updSw] at hassign
  rw [htasks]
  exact hassign

/-- A register that an update does not write. -/
theorem hwOf_updHw_field {α : Type} (π : HwPort → α) {f : HwPort → HwPort} (h : ∀ u, π (f u) = π u) (p q : Port)
    (s : State) : π (hwOf (updHw p f s) q) = π (hwOf s q) := by
  rw [hwOf_updHw]
  split
  case isTrue hq => rw [h, hq.1]
  case isFalse => rfl

/-- A register that is no part of the IN group is as it was after a WRITE (R242). -/
theorem hwOf_afterWrite_field {α : Type} (π : HwPort → α)
    (h : ∀ (u : HwPort) (fifo : List Byte) (e : EpNo) (b : Bool), π { u with inFifo := fifo, inEpno := e, inFlight := b } = π u)
    (p q : Port) (ep : EpNo) (bytes : List Byte) (s : State) :
    π (hwOf (afterWrite p ep bytes s) q) = π (hwOf s q) := by
  have hstale : π (hwOf (afterStaleCheck p s) q) = π (hwOf s q) := by
    unfold afterStaleCheck
    split
    case isTrue => rfl
    case isFalse => exact hwOf_updHw_field π (fun u => h u [] u.inEpno false) p q s
  unfold afterWrite
  rw [hwOf_observe]
  exact (hwOf_updHw_field π (by intro u; exact h u _ _ _) ..).trans hstale

/-- A part of the bookkeeping that no WRITE counts in is as it was (R242). -/
theorem swOf_afterWrite_field {α : Type} (π : SwPort → α)
    (h : ∀ (u : SwPort) (m n : Nat), π { u with ctrWriteReset := m, ctrWriteOverflow := n } = π u)
    (p q : Port) (ep : EpNo) (bytes : List Byte) (s : State) :
    π (swOf (afterWrite p ep bytes s) q) = π (swOf s q) := by
  have hstale : π (swOf (afterStaleCheck p s) q) = π (swOf s q) := by
    unfold afterStaleCheck
    split
    case isTrue => rfl
    case isFalse => exact swOf_updSw_field π (fun u => h u _ u.ctrWriteOverflow) p q _
  unfold afterWrite
  rw [swOf_observe, swOf_updHw]
  exact (swOf_updSw_field π (by intro u; exact h u u.ctrWriteReset _) ..).trans hstale

/-- The status packet and the value of cp behind it write no address (R195). -/
theorem addresses_afterStatusIn (p q : Port) (s : State) :
    (hwOf (afterStatusIn p s) q).epcAddress = (hwOf s q).epcAddress ∧
    (hwOf (afterStatusIn p s) q).outAddress = (hwOf s q).outAddress ∧
    (swOf (afterStatusIn p s) q).address = (swOf s q).address := by
  refine ⟨hwOf_afterWrite_field HwPort.epcAddress ?_ .., hwOf_afterWrite_field HwPort.outAddress ?_ ..,
    (swOf_updSw_field SwPort.address ?_ ..).trans (swOf_afterWrite_field SwPort.address ?_ ..)⟩ <;> intros <;> rfl

/-- Settles O57: two assignments and the status packet, none of which writes an address. -/
theorem setAddressRequest : Obligations.SetAddressRequest := by
  intro p pk s hs
  have hready := hs.1
  have hlen : 14 ≤ turnLength s := hs.2
  have hlatched := hready.latched_served pk
  have hserves : Serves (.reqSetAddress p pk) p pk .setAddress := rfl
  refine ⟨fun hdir hrec hnodata hvalue => ?deferred, fun h => ?rejected⟩
  case deferred =>
    have hassign := reaches_setAddress (p := p) (s := served p pk s) (a := pk.value.extractLsb' 0 7)
    rw [hlatched] at hassign
    have hr := hassign hrec (noDataOut_eq_true hdir hnodata) (devAddr_of_le hvalue)
    refine ⟨_, pk.value.extractLsb' 0 7, ?_, hready.rowAcks hserves hdir hr rfl
      ((latched_updSw _ _ _ _ (by intro; rfl)).trans hlatched) (by omega), rfl, fun q => ?_⟩
    · have hlt : pk.value.toNat < 2 ^ 7 := by omega
      simpa using hlt
    · obtain ⟨hepc, hout, haddr⟩ := addresses_afterStatusIn p q
        (updSw p (fun u => { u with deferredAddress := some (pk.value.extractLsb' 0 7), pendingTxAck := true }) (served p pk s))
      refine ⟨hepc, hout, haddr.trans ?_⟩
      exact (swOf_updSw_field SwPort.address (by intro; rfl) ..).trans (swOf_updSw_field SwPort.address (by intro; rfl) ..)
  case rejected =>
    refine hs.rowRejects hserves (reqSetAddressTasks_rejected ?_) (by decide)
    rw [hlatched]
    rcases h with h | h | h | h
    exacts [.inr (.inl (noDataOut_eq_false (.inl h))), .inl h, .inr (.inl (noDataOut_eq_false (.inr h))),
      .inr (.inr (devAddr_of_lt h))]

/-! ## GetDescriptor (R202) -/

section
variable {p : Port} {s : State}

theorem reqGetDescriptorTasks_rejected
    (h : directionOf (latched s p) = .hostToDevice ∨ recipientOf (latched s p) ≠ .device) :
    reqGetDescriptorTasks p s = [.stallControlRequest p] := by
  refine if_neg ?_
  rintro ⟨hrec, hdir⟩
  exact h.elim (fun hout => by rw [hout] at hdir; cases hdir) (· hrec)

variable (hdir : directionOf (latched s p) = .deviceToHost) (hrec : recipientOf (latched s p) = .device)
include hdir hrec

/-- The table that each descriptor type reads (R202). -/
theorem reqGetDescriptorTasks_table :
    ((latched s p).value.toNat / 256 = 1 → reqGetDescriptorTasks p s = tableReply p (some s.cfg.tables.device)) ∧
    ((latched s p).value.toNat / 256 = 2 → reqGetDescriptorTasks p s
      = tableReply p (configBlob s.cfg.tables (swOf s p).speed (lo8 (latched s p).value))) ∧
    ((latched s p).value.toNat / 256 = 6 → reqGetDescriptorTasks p s = tableReply p s.cfg.tables.qualifier) := by
  refine ⟨fun h => ?_, fun h => ?_, fun h => ?_⟩
  all_goals simp only [reqGetDescriptorTasks, hdir, hrec, and_self, if_true, descSelect, toNat_hi8, h, tableReply]

/-- A string is the table's, or the hook's where the table lacks it (R202). -/
theorem reqGetDescriptorTasks_string (h : (latched s p).value.toNat / 256 = 3) :
    (∀ b, stringBlob s.cfg.tables (lo8 (latched s p).value) = some b → reqGetDescriptorTasks p s = [.sendResponse p b]) ∧
    (stringBlob s.cfg.tables (lo8 (latched s p).value) = none →
      (∀ hook, s.cfg.hooks.stringHook = some hook →
        reqGetDescriptorTasks p s = [.runHook p .stringHook (lo8 (latched s p).value) []]) ∧
      (s.cfg.hooks.stringHook = none → reqGetDescriptorTasks p s = [.stallControlRequest p])) := by
  refine ⟨fun b hb => ?_, fun hb => ⟨fun hook hhook => ?_, fun hhook => ?_⟩⟩
  all_goals simp only [reqGetDescriptorTasks, descSelect, toNat_hi8, *, and_self, if_true]

theorem reqGetDescriptorTasks_otherType (h : (latched s p).value.toNat / 256 ∉ [1, 2, 3, 6]) :
    reqGetDescriptorTasks p s = [.stallControlRequest p] := by
  unfold reqGetDescriptorTasks
  simp only [hdir, hrec, and_self, if_true, descSelect, toNat_hi8]
  split <;> simp_all

end

/-- Settles O58: the table, the hook, or the rejection. -/
theorem getDescriptorRequest : Obligations.GetDescriptorRequest := by
  intro p pk i s hi
  have hserves : Serves i p pk .getDescriptor := serves_of_mem (rows := [.getDescriptor, .getDescriptorDevice,
    .getDescriptorConfiguration, .getDescriptorString, .getDescriptorDeviceQualifier]) (by decide) hi
  have htable := reqGetDescriptorTasks_table (p := p) (s := served p pk s)
  have hstring := reqGetDescriptorTasks_string (p := p) (s := served p pk s)
  have hother := reqGetDescriptorTasks_otherType (p := p) (s := served p pk s)
  have hrefuse := reqGetDescriptorTasks_rejected (p := p) (s := served p pk s)
  have hspeed (hs : Ready p s) : (swOf (served p pk s) p).speed = (swOf s p).speed := by rw [hs.swOf_served]
  refine ⟨fun blob hdir hrec hs hblob => ?table, fun hook hdir hrec hs htype hnone hhook => ?string, fun hs h => ?rejected⟩
  case table =>
    rw [hs.latched_served, hspeed hs] at htable
    rw [hs.latched_served] at hstring
    obtain ⟨hdevice, hconfig, hqualifier⟩ := htable hdir hrec
    have htasks : requestTasks p (served p pk s) .getDescriptor = [.sendResponse p blob] := by
      rcases hblob with ⟨htype, hb⟩ | ⟨htype, hb⟩ | ⟨htype, hb⟩ | ⟨htype, hb⟩
      · exact (hdevice htype).trans (by rw [cfg_served, hb]; rfl)
      · exact (hconfig htype).trans (by rw [cfg_served, hb]; rfl)
      · exact (hstring hdir hrec htype).1 blob hb
      · exact (hqualifier htype).trans (by rw [cfg_served, hb]; rfl)
    have hreplies := hs.rowReplies hserves (.of_eq htasks _)
    exact ⟨hreplies.1, fun hone hn => hreplies.2 hone (by omega)⟩
  case string =>
    rw [hs.latched_served] at hstring
    have htasks : requestTasks p (served p pk s) .getDescriptor = [.runHook p .stringHook (lo8 pk.value) []] :=
      ((hstring hdir hrec htype).2 hnone).1 hook hhook
    exact ⟨hs.rowContinues hserves rfl (.of_eq htasks _), fun blob hresult hone hn =>
      hs.rowHookReplies hserves htasks hhook hresult hdir hone (by omega)⟩
  case rejected =>
    have hlatched := hs.1.latched_served pk
    rw [hlatched, hspeed hs.1] at htable
    rw [hlatched] at hstring hother hrefuse
    have hreject (htasks : requestTasks p (served p pk s) .getDescriptor = [.stallControlRequest p]) :=
      hs.rowRejects hserves htasks (by decide)
    by_cases hdevice : directionOf pk = .hostToDevice ∨ recipientOf pk ≠ .device
    case pos => exact hreject (hrefuse hdevice)
    case neg =>
      obtain ⟨hout, hrec⟩ := not_or.1 hdevice
      have hdir : directionOf pk = .deviceToHost := by
        cases hd : directionOf pk
        case hostToDevice => exact absurd hd hout
        case deviceToHost => rfl
      obtain ⟨-, hconfig, hqualifier⟩ := htable hdir (not_not.1 hrec)
      rcases h.resolve_left hdevice with ⟨htype, hb⟩ | ⟨htype, hb, hhook⟩ | ⟨htype, hb⟩ | htype
      · exact hreject ((hconfig htype).trans (by rw [cfg_served, hb]; rfl))
      · obtain ⟨hsome, hnone⟩ := (hstring hdir (not_not.1 hrec) htype).2 hb
        cases hk : s.cfg.hooks.stringHook
        case none => exact hreject (hnone hk)
        case some hook => exact hs.1.rowHookRejects hserves (hsome hook hk) hk (hhook hook hk) (by have := hs.2; omega)
      · exact hreject ((hqualifier htype).trans (by rw [cfg_served, hb]; rfl))
      · exact hreject (hother hdir (not_not.1 hrec) htype)

/-! ## Configurations and interfaces (R204 to R207) -/

/-- What rejects a request without a data stage: another recipient, or `noDataOut` (R205, R207). -/
theorem configurationTasks_rejected {p : Port} {s : State} :
    ((directionOf (latched s p) = .hostToDevice ∨ recipientOf (latched s p) ≠ .device) →
      reqGetConfigurationTasks p s = [.stallControlRequest p]) ∧
    ((noDataOut (latched s p) = false ∨ recipientOf (latched s p) ≠ .device ∨
        (lo8 (latched s p).value ≠ 0 ∧ configValid s.cfg.tables (swOf s p).speed (lo8 (latched s p).value) = false)) →
      reqSetConfigurationTasks p s = [.stallControlRequest p]) := by
  constructor
  · rintro (h | h) <;> simp [reqGetConfigurationTasks, h]
  · rintro (h | h | ⟨hz, hv⟩)
    · simp [reqSetConfigurationTasks, h]
    · simp [reqSetConfigurationTasks, h]
    · simp only [reqSetConfigurationTasks, hz, hv, Bool.false_eq_true, or_self, if_false, ite_self]

theorem interfaceTasks_rejected {p : Port} {s : State} :
    ((directionOf (latched s p) = .hostToDevice ∨ recipientOf (latched s p) ≠ .interface ∨ (swOf s p).configValue = 0) →
      reqGetInterfaceTasks p s = [.stallControlRequest p]) ∧
    ((noDataOut (latched s p) = false ∨ recipientOf (latched s p) ≠ .interface ∨ (swOf s p).configValue = 0 ∨
        (latched s p).value ≠ 0) →
      reqSetInterfaceTasks p s = [.stallControlRequest p]) := by
  constructor
  · rintro (h | h | h) <;> refine if_neg ?_ <;> rintro ⟨h₁, h₂, h₃⟩
    · rw [h] at h₂; cases h₂
    · exact h h₁
    · exact h₃ h
  · rintro (h | h | h | h) <;> refine if_neg ?_ <;> rintro ⟨h₁, h₂, h₃, h₄⟩
    · rw [h] at h₂; cases h₂
    · exact h h₁
    · exact h₃ h
    · exact h h₄

/-- SetConfiguration assigns the low byte of `value`, if it is 0 or valid (R205). -/
theorem reaches_setConfiguration {p : Port} {s : State} (hno : noDataOut (latched s p) = true)
    (hrec : recipientOf (latched s p) = .device) (hv : lo8 (latched s p).value = 0 ∨
      configValid s.cfg.tables (swOf s p).speed (lo8 (latched s p).value) = true) :
    Reaches 1 (reqSetConfigurationTasks p s) s [.ackStatusStage p]
      (updSw p (fun u => { u with configValue := lo8 (latched s p).value }) s) := by
  have htasks : reqSetConfigurationTasks p s = [.sw p (.configValue (lo8 (latched s p).value)), .ackStatusStage p] := by
    simp only [reqSetConfigurationTasks, hno, hrec, and_self, if_true, if_pos hv]
  rw [htasks]
  exact fun _ _ => rfl

/-- Settles O59: the reply, the assignment, or the rejection of each of the four. -/
theorem configurationAndInterfaceRequests : Obligations.ConfigurationAndInterfaceRequests := by
  refine ⟨fun p pk s hs => ?configuration, fun p pk s hs => ?interface⟩
  all_goals
    have hready := hs.1
    have hlen : 24 ≤ turnLength s := hs.2
    have hlatched := hready.latched_served pk
    have hsw := hready.swOf_served pk
  case configuration =>
    have hget : Serves (.reqGetConfiguration p pk) p pk .getConfiguration := rfl
    have hset : Serves (.reqSetConfiguration p pk) p pk .setConfiguration := rfl
    have hrejects := configurationTasks_rejected (p := p) (s := served p pk s)
    have hassign := reaches_setConfiguration (p := p) (s := served p pk s)
    rw [hlatched, hsw] at hrejects hassign
    refine ⟨fun hdir hrec => ?reply, fun h => ?rejected, fun v hv => ?value⟩
    case reply =>
      have htasks : requestTasks p (served p pk s) .getConfiguration = [.sendResponse p [(swOf s p).configValue]] := by
        simp only [requestTasks, reqGetConfigurationTasks, hlatched, hsw, hdir, hrec, and_self, if_true]
      have hreplies := hready.rowReplies hget (.of_eq htasks _)
      refine ⟨hreplies.1, fun hone => hreplies.2 hone ?_⟩
      rw [List.length_take, List.length_singleton]
      omega
    case rejected => exact hs.rowRejects hget (hrejects.1 h) (by decide)
    case value =>
      obtain rfl : v = lo8 pk.value := BitVec.eq_of_toNat_eq (hv.trans (toNat_lo8 _).symm)
      refine ⟨fun hdir hrec hnodata hvalid => ?_, fun h => hs.rowRejects hset (hrejects.2 ?_) (by decide)⟩
      · exact hready.rowAcks hset hdir (hassign (noDataOut_eq_true hdir hnodata) hrec hvalid) rfl
          ((latched_updSw _ _ _ _ (by intro; rfl)).trans hlatched) (by omega)
      · rcases h with h | h | h | h
        exacts [.inl (noDataOut_eq_false (.inl h)), .inr (.inl h), .inl (noDataOut_eq_false (.inr h)), .inr (.inr h)]
  case interface =>
    have hget : Serves (.reqGetInterface p pk) p pk .getInterface := rfl
    have hset : Serves (.reqSetInterface p pk) p pk .setInterface := rfl
    have hrejects := interfaceTasks_rejected (p := p) (s := served p pk s)
    rw [hlatched, hsw] at hrejects
    refine ⟨fun hdir hrec hconfig => ?reply, fun h => ?rejectedGet, fun hdir hrec hnodata hconfig hvalue => ?ack,
      fun h => ?rejectedSet⟩
    case reply =>
      have htasks : requestTasks p (served p pk s) .getInterface = [.sendResponse p [0x00]] := by
        simp only [requestTasks, reqGetInterfaceTasks, hlatched, hsw]
        exact if_pos ⟨hrec, hdir, hconfig⟩
      have hreplies := hready.rowReplies hget (.of_eq htasks _)
      refine ⟨hreplies.1, fun hone => hreplies.2 hone ?_⟩
      rw [List.length_take, List.length_singleton]
      omega
    case rejectedGet => exact hs.rowRejects hget (hrejects.1 h) (by decide)
    case ack =>
      have htasks : requestTasks p (served p pk s) .setInterface = [.ackStatusStage p] := by
        simp only [requestTasks, reqSetInterfaceTasks, hlatched, hsw]
        exact if_pos ⟨hrec, noDataOut_eq_true hdir hnodata, hconfig, hvalue⟩
      exact hready.rowAcks hset hdir (.of_eq htasks _) rfl hlatched (by omega)
    case rejectedSet =>
      refine hs.rowRejects hset (hrejects.2 ?_) (by decide)
      rcases h with h | h | h | h
      exacts [.inl (noDataOut_eq_false (.inl h)), .inr (.inl h), .inl (noDataOut_eq_false (.inr h)), .inr (.inr h)]

end Sys2Proof.Machine
end

section
/-! PROOFS. O23: who writes a non-zero address (44_control_engine.md R214, R215; 70_reset_and_hazards.md R300). A step adds the
write of an address to the trace only where it performs SET_ADDRESS (`taskStep_addrWrites`); without hooks, work that does
so comes from APP, which has none, or from CTE_SEND_COMPLETE. -/

namespace Sys2Proof.Machine

/-- Between `s` and `t` the trace grows, by entries of whose address writes `W` holds. -/
def WritesAddrs (W : Port → DevAddr → Prop) (s t : State) : Prop :=
  ∃ l, t.g.obs = s.g.obs ++ l ∧ ∀ p a, Obs.addrWrite p a ∈ l → W p a

namespace WritesAddrs

variable {W : Port → DevAddr → Prop} {s t u : State}

theorem of_eq (h : t.g.obs = s.g.obs) : WritesAddrs W s t :=
  ⟨[], by rw [h, List.append_nil], fun _ _ h => absurd h List.not_mem_nil⟩

theorem of_entry {o : Obs} (h : t.g.obs = s.g.obs ++ [o]) (ho : ∀ p a, o = .addrWrite p a → W p a) : WritesAddrs W s t :=
  ⟨[o], h, fun p a ha => ho p a (List.mem_singleton.1 ha).symm⟩

theorem trans (h : WritesAddrs W s t) (h' : WritesAddrs W t u) : WritesAddrs W s u := by
  obtain ⟨l, hl, hw⟩ := h
  obtain ⟨l', hl', hw'⟩ := h'
  refine ⟨l ++ l', by rw [hl', hl, List.append_assoc], fun p a ha => ?_⟩
  exact (List.mem_append.1 ha).elim (hw p a) (hw' p a)

theorem mono {W' : Port → DevAddr → Prop} (h : WritesAddrs W s t) (hW : ∀ p a, W p a → W' p a) : WritesAddrs W' s t := by
  obtain ⟨l, hl, hw⟩ := h
  exact ⟨l, hl, fun p a ha => hW p a (hw p a ha)⟩

end WritesAddrs

/-! ## One step -/

theorem obs_opInPushByte (p : Port) (b : Byte) (s : State) : (opInPushByte p b s).g.obs = s.g.obs := by
  unfold opInPushByte
  split <;> rfl

theorem obs_popByte (p : Port) (f : ReadFifo) (s : State) : (popByte p f s).g.obs = s.g.obs := by
  have hdraw (fifo : List Byte) : (drawIfEmpty fifo s).g.obs = s.g.obs := by
    unfold drawIfEmpty
    split <;> rfl
  cases f <;> exact hdraw _

/-- An operation writes an address only if it is SET_ADDRESS (R139). -/
theorem callStep_addrWrites (p : Port) (o : PortOp) (s : State) :
    WritesAddrs (fun q a => q = p ∧ o = .setAddress a) s (callStep p o s).state := by
  cases o
  case setAddress a => exact .of_entry rfl (by rintro q b ⟨⟩; exact ⟨rfl, rfl⟩)
  case connect | resetFifo | stallIn | stallOut | unstallIn | unstallOut | clearHalt | outPrime | inCommit =>
    exact .of_entry rfl nofun
  case inPushByte b => exact .of_eq (obs_opInPushByte p b s)
  case outPopByte => exact .of_eq (obs_popByte p .out s)
  case ctrlPopByte => exact .of_eq (obs_popByte p .ctrl s)
  all_goals exact .of_eq rfl

/-- A step writes an address only if it is SET_ADDRESS. -/
theorem taskStep_addrWrites (u : Task) (s : State) :
    WritesAddrs (fun p a => u = .call p (.setAddress a)) s (taskStep u s).state := by
  cases u
  case call p o => exact (callStep_addrWrites p o s).mono (by rintro q a ⟨rfl, rfl⟩; rfl)
  case dropLine | bootConnect | writeBoundary => exact .of_entry rfl nofun
  case writeFinal p ep r => cases r <;> exact .of_entry rfl nofun
  case writeExpired p r => cases r <;> exact .of_eq rfl
  case readQuery => exact .of_eq (by simp only [taskStep, readQueryStep]; split <;> rfl)
  case readPop => exact .of_eq (by simp only [taskStep, readPopStep]; split <;> exact obs_popByte ..)
  case readReturn p buf ovf r =>
    exact .of_eq (by by_cases h : 0 < ovf <;> cases r <;> simp only [taskStep, readReturnStep, h, if_true, if_false] <;> rfl)
  case writeStart => exact .of_eq (by simp only [taskStep, writeStartStep]; split <;> rfl)
  case writePush => exact .of_eq (by simp only [taskStep, writePushStep]; split <;> exact obs_opInPushByte ..)
  case writePoll => exact .of_eq (by simp only [taskStep, writePollStep]; repeat' split
                                     all_goals rfl)
  case evqPush ev => exact .of_eq (by simp only [taskStep, opEvqPush]; split <;> rfl)
  all_goals exact .of_eq rfl

/-! ## Work that writes no other address -/

/-- Work that performs SET_ADDRESS only as `W` says, and does not itself choose an address. -/
def WritesOnly (W : Port → DevAddr → Prop) : Task → Prop
  | .call p (.setAddress a) => W p a
  | .sendComplete _ => False
  | .mainPop => False
  | _ => True

section
variable {W : Port → DevAddr → Prop}

theorem writesOnly_callStep (p : Port) (o : PortOp) (s : State) : ∀ v ∈ (callStep p o s).next, WritesOnly W v := by
  cases o <;> simp [callStep, goOn, disconnectTasks, WritesOnly]

theorem writesOnly_runTypeHookTasks (p : Port) (s : State) (data : List Byte) :
    ∀ v ∈ runTypeHookTasks p s data, WritesOnly W v := by
  unfold runTypeHookTasks
  split <;> simp [WritesOnly]

theorem writesOnly_writeNext (p : Port) (ep : EpNo) (size : Nat) (rest : List Byte) (i : Nat) (r : WriteRet) :
    WritesOnly W (writeNext p ep size rest i r) := by
  cases rest <;> trivial

theorem writesOnly_readReturnTasks (p : Port) (s : State) (buf : List Byte) (ovf : Nat) (r : ReadRet) :
    ∀ v ∈ readReturnTasks p s buf ovf r, WritesOnly W v := by
  cases r <;> simp only [readReturnTasks, setupReadTasks, dataOutReadTasks]
  case setup => split <;> simp [WritesOnly]
  all_goals simp [WritesOnly]

theorem writesOnly_requestTasks (p : Port) (s : State) (h : Handler) : ∀ v ∈ requestTasks p s h, WritesOnly W v := by
  cases h <;> simp only [requestTasks]
  case classOrVendor =>
    simp only [reqClassOrVendorTasks]
    split
    case h_1 => simp [WritesOnly]
    case h_2 =>
      split
      case isTrue => simp [WritesOnly]
      case isFalse => exact writesOnly_runTypeHookTasks p s []
  all_goals
    simp only [reqGetStatusTasks, reqClearFeatureTasks, reqReservedTasks, reqSetFeatureTasks, reqSetAddressTasks,
      reqGetDescriptorTasks, tableReply, reqSetDescriptorTasks, reqGetConfigurationTasks, reqSetConfigurationTasks,
      reqGetInterfaceTasks, reqSetInterfaceTasks, reqSynchFrameTasks]
    repeat' split
  all_goals simp [WritesOnly]

/-- Without hooks such work leaves such work. -/
theorem writesOnly_next (hW : ∀ p, W p 0) {u : Task} {s : State} (hhooks : s.cfg.hooks = ⟨none, none, none⟩)
    (hu : WritesOnly W u) : ∀ v ∈ (taskStep u s).next, WritesOnly W v := by
  cases u
  case call p o => exact writesOnly_callStep p o s
  case readQuery => simp only [taskStep, readQueryStep]; split <;> simp [goOn, WritesOnly]
  case readPop => simp only [taskStep, readPopStep]; split <;> simp [goOn, WritesOnly]
  case readReturn p buf ovf r => exact writesOnly_readReturnTasks p _ buf ovf r
  case writeStart =>
    simp only [taskStep, writeStartStep, goOn]
    split
    case isTrue =>
      exact List.forall_mem_cons.2 ⟨trivial, List.forall_mem_cons.2 ⟨trivial, by simp [writesOnly_writeNext]⟩⟩
    case isFalse => simp [writesOnly_writeNext]
  case writePush =>
    simp only [taskStep, writePushStep, goOn]
    split
    case isTrue => simp [WritesOnly]
    case isFalse => simp [writesOnly_writeNext]
  case writePoll =>
    simp only [taskStep, writePollStep]
    split
    case isTrue => split <;> simp [goOn, WritesOnly]
    case isFalse => simp [goOn, writesOnly_writeNext]
  case writeFinal p ep r => cases r <;> simp [taskStep, goOn, writeOkTasks, WritesOnly]
  case writeExpired p r => cases r <;> simp [taskStep, goOn, writeExpiredTasks, WritesOnly]
  case request p h => exact writesOnly_requestTasks p s h
  case ackStatusStage p =>
    simp only [taskStep, goOn]
    cases directionOf (latched s p) <;> simp [ackStatusStageTasks, WritesOnly]
  case sendResponse => simp only [taskStep, goOn, sendResponseTasks]; split <;> simp [WritesOnly]
  case runHook p kind k data =>
    have hnone : hookOf s.cfg.hooks kind = none := by cases kind <;> rw [hhooks] <;> rfl
    simp [taskStep, goOn, runHookTasks_absent hnone, WritesOnly]
  case receivePacket => simp only [taskStep, goOn, receivePacketTasks]; split <;> simp [WritesOnly]
  case receiveDecide p n =>
    simp only [taskStep, goOn, receiveDecideTasks]
    split
    case isTrue => exact List.forall_mem_append.2 ⟨by simp [clearRxTasks, WritesOnly], writesOnly_runTypeHookTasks p s _⟩
    case isFalse => simp [WritesOnly]
  case irqScan chain extra =>
    cases chain with
    | nil => simp [taskStep, goOn, irqScanTasks, WritesOnly]
    | cons x chain => simp only [taskStep, goOn, irqScanTasks]; split <;> simp [WritesOnly]
  case irqHandler p src => cases src <;> simp [taskStep, goOn, irqHandlerTasks, WritesOnly]
  case irqEpno p use => cases use <;> simp [taskStep, goOn, irqEpnoTasks, WritesOnly]
  all_goals simp_all [taskStep, goOn, stallControlRequestTasks, dataOutBeginTasks, cteBusResetTasks,
    cteReceiveControlTasks, cteDisconnectTasks, disconnectTasks, clearRxTasks, WritesOnly]

/-- A turn of such work. -/
theorem runTasks_writesAddrs (hW : ∀ p, W p 0) {ts : List Task} {s : State} (hhooks : s.cfg.hooks = ⟨none, none, none⟩)
    (hts : ∀ u ∈ ts, WritesOnly W u) (n : Nat) : WritesAddrs W s (runTasks n ts s).2 := by
  have hstep (u : Task) (t : State) (hu : WritesOnly W u) (ht : t.cfg = s.cfg ∧ WritesAddrs W s t) :
      (∀ v ∈ (taskStep u t).next, WritesOnly W v) ∧ (taskStep u t).state.cfg = s.cfg ∧
        WritesAddrs W s (taskStep u t).state := by
    obtain ⟨hcfg, hwrites⟩ := ht
    refine ⟨writesOnly_next hW (by rw [hcfg, hhooks]) hu, (taskStep_keeps u t).cfg.trans hcfg, hwrites.trans ?_⟩
    exact (taskStep_addrWrites u t).mono (by rintro p a rfl; exact hu)
  exact (runTasks_induct hstep n ts s hts ⟨rfl, .of_eq rfl⟩).2.2

/-- A turn whose first step leaves the trace. -/
theorem runTasks_writesAddrs_first {u : Task} {ts : List Task} {s v : State} (hu : Reaches 1 [u] s ts v)
    (hobs : v.g.obs = s.g.obs) (hrest : ∀ m, WritesAddrs W v (runTasks m ts v).2) (n : Nat) :
    WritesAddrs W s (runTasks n [u] s).2 := by
  cases n with
  | zero => exact .of_eq rfl
  | succ m =>
    have hrun : runTasks (m + 1) [u] s = runTasks m ts v := by simpa using hu m []
    rw [hrun]
    exact (WritesAddrs.of_eq hobs).trans (hrest m)

/-! ## One iteration of the main loop -/

theorem writesOnly_appTasks (hW : ∀ p, W p 0) (p : Port) {calls : List AppCall} (h : noSetAddress calls = true) :
    ∀ u ∈ appTasks p calls, WritesOnly W u := by
  refine List.forall_mem_flatMap.2 fun c hc => ?_
  have hno := List.all_eq_true.1 h c hc
  cases c with
  | op o => cases o <;> simp_all [WritesOnly]
  | cteDisconnect => simp [WritesOnly]
  | reconnect => simpa [bootPort, WritesOnly] using hW p

theorem noSetAddress_appOnEvent {a : App} (h : ∀ x ∈ a.onEvent, noSetAddress x.2 = true) (ev : Event) :
    noSetAddress (appOnEvent a ev) = true := by
  unfold appOnEvent
  cases hl : a.onEvent.lookup ev with
  | none => rfl
  | some calls =>
    obtain ⟨l₁, l₂, hmem, -⟩ := List.lookup_eq_some_iff.1 hl
    exact h (ev, calls) (by simp [hmem])

theorem writesOnly_appIdleTasks (hW : ∀ p, W p 0) {a : App} (h : noSetAddress (a.idle.map (·.2)) = true) :
    ∀ u ∈ appIdleTasks a, WritesOnly W u := by
  refine List.forall_mem_flatMap.2 fun x hx => writesOnly_appTasks hW x.1 ?_
  have hno := List.all_eq_true.1 h x.2 (List.mem_map.2 ⟨x, hx, rfl⟩)
  simpa [noSetAddress] using hno

/-- The case of every event but a completion of endpoint 0. -/
theorem writesOnly_eventTasks (hW : ∀ p, W p 0) {a : App} (hidle : noSetAddress (a.idle.map (·.2)) = true)
    (hevent : ∀ x ∈ a.onEvent, noSetAddress x.2 = true) {ev : Option Event} (hev : ∀ p, ev ≠ some (.sendComplete p 0)) :
    ∀ u ∈ eventTasks a ev, WritesOnly W u := by
  have happ (p : Port) (e : Event) := writesOnly_appTasks hW p (noSetAddress_appOnEvent hevent e)
  cases ev with
  | none => exact writesOnly_appIdleTasks hW hidle
  | some e =>
    cases e <;> simp only [eventTasks]
    case busReset p => exact List.forall_mem_cons.2 ⟨trivial, happ p _⟩
    case unknownInterrupt => simp [WritesOnly]
    case error => simp [WritesOnly]
    case sendComplete p n =>
      rw [if_neg (by rintro rfl; exact hev p rfl)]
      exact happ p _
    all_goals
      split
      case isTrue => simp [WritesOnly]
      case isFalse => exact happ _ _

end

/-- The write of an address that CTE_SEND_COMPLETE owes (R214). -/
def AddrWriteDue (s : State) (p : Port) (a : DevAddr) : Prop :=
  evqHead s = some (.sendComplete p 0) ∧ (swOf s p).cp = .statusIn ∧ (swOf s p).deferredAddress = some a ∧
    (swOf s p).pendingTxAck = false

theorem writesOnly_sendCompleteTasks {W : Port → DevAddr → Prop} {p : Port} {s : State}
    (hW : ∀ a, (swOf s p).cp = .statusIn → (swOf s p).deferredAddress = some a → (swOf s p).pendingTxAck = false → W p a) :
    ∀ u ∈ sendCompleteTasks p s, WritesOnly W u := by
  unfold sendCompleteTasks
  split
  case h_1 hcp =>
    split
    case h_1 => simp [WritesOnly]
    case h_2 a hdef =>
      split
      case isTrue => simp
      case isFalse hack => simpa [WritesOnly] using hW a hcp hdef (by simpa using hack)
  all_goals simp

/-- What one iteration from `s` may write: address 0, or the address that is due. -/
def MayWrite (s : State) (p : Port) (a : DevAddr) : Prop := a ≠ 0 → AddrWriteDue s p a

theorem mayWrite_zero (s : State) (p : Port) : MayWrite s p 0 := fun h => absurd rfl h

/-- One iteration writes address 0, or the address that is due. -/
theorem mainPop_writesAddrs {s : State} (hhooks : s.cfg.hooks = ⟨none, none, none⟩)
    (hidle : noSetAddress (s.cfg.app.idle.map (·.2)) = true) (hevent : ∀ x ∈ s.cfg.app.onEvent, noSetAddress x.2 = true)
    (n : Nat) : WritesAddrs (MayWrite s) s (runTasks n [.mainPop] s).2 := by
  have hpop : Reaches 1 [.mainPop] s (eventTasks s.cfg.app (evqHead s)) (opEvqPop s) := Reaches.step rfl
  refine runTasks_writesAddrs_first hpop rfl (fun m => ?_) n
  by_cases hev : ∃ q, evqHead s = some (.sendComplete q 0)
  case pos =>
    obtain ⟨q, hq⟩ := hev
    have htasks : eventTasks s.cfg.app (evqHead s) = [.sendComplete q] := by rw [hq]; rfl
    rw [htasks]
    refine runTasks_writesAddrs_first (ts := sendCompleteTasks q (opEvqPop s)) (Reaches.step rfl) rfl (fun k => ?_) m
    have hdue : ∀ u ∈ sendCompleteTasks q (opEvqPop s), WritesOnly (MayWrite s) u :=
      writesOnly_sendCompleteTasks fun a hcp hdef hack _ => ⟨hq, hcp, hdef, hack⟩
    exact runTasks_writesAddrs (s := opEvqPop s) (mayWrite_zero s) hhooks hdue k
  case neg =>
    have hwork := writesOnly_eventTasks (mayWrite_zero s) hidle hevent fun q hq => hev ⟨q, hq⟩
    exact runTasks_writesAddrs (s := opEvqPop s) (mayWrite_zero s) hhooks hwork m

/-- Settles O23: an iteration that adds a non-zero address owed it. -/
theorem addressWrittenOnSendCompleteOnly : Obligations.AddressWrittenOnSendCompleteOnly := by
  intro s t l p a hmain hhooks hidle hevent ht hobs hmem ha
  rw [mainStep_betweenIterations hmain] at ht
  have hwrites : WritesAddrs (MayWrite s) s t := by
    rcases startMain_next ht with rfl | rfl
    · exact .of_eq rfl
    · exact mainPop_writesAddrs (s := setRet .nothing s) hhooks hidle hevent (turnLength s)
  obtain ⟨l', hl', hdue⟩ := hwrites
  obtain rfl : l = l' := List.append_cancel_left (hobs.symm.trans hl')
  exact hdue p a hmem ha

end Sys2Proof.Machine
end

section
/-! SUPPORT. WRITE of more than one packet (45_endpoint_io.md R243, R245): the pushes up to a packet boundary and its commit
(`reaches_packet`), the pushes of the last packet (`reaches_lastPacket`), and the turns that end in a poll that waits. The state
after packet `j` is `packetsOut`: one write of `HW[p]` and the trace of the commits and of the packets that the host took. -/

namespace Sys2Proof.Machine

/-! ## A turn that ends in a step that waits (R245; log 2) -/

theorem Reaches.waits {k n : Nat} {ts next : List Task} {u : Task} {s s' : State} (h : Reaches k ts s [u] s')
    (hu : taskStep u s' = ⟨next, s', true⟩) (hn : k < n) : runTasks n ts s = (next, s') := by
  have hrun := h (n - k - 1 + 1) []
  rw [show n - k - 1 + 1 + k = n by omega, List.append_nil, List.append_nil, runTasks_waits (by rw [hu]), hu] at hrun
  simpa using hrun

theorem startMain_waits {k : Nat} {ts next : List Task} {u : Task} {s s' : State} (he : mainEnabled s = true)
    (h : Reaches k ts (setRet .nothing s) [u] s') (hu : taskStep u s' = ⟨next, s', true⟩) (hk : k < turnLength s) :
    startMain ts s = .next { s' with main := next ++ s.main } := by
  simp only [startMain, he, if_true, h.waits hu hk]

theorem mainTurn_waits {k : Nat} {next : List Task} {u : Task} {s s' : State} (he : mainEnabled s = true)
    (h : Reaches k (mainWork s) (setRet .nothing { s with main := [] }) [u] s') (hu : taskStep u s' = ⟨next, s', true⟩)
    (hk : k < turnLength s) : mainTurn s = .next { s' with main := next } := by
  simp only [mainTurn, he, if_true, h.waits hu hk]

/-! ## The pieces of the bytes -/

theorem packetOf_append_drop (bytes : List Byte) (size k : Nat) :
    packetOf bytes size k ++ bytes.drop ((k + 1) * size) = bytes.drop (k * size) := by
  rw [Nat.succ_mul, ← List.drop_drop, packetOf, List.take_append_drop]

theorem length_packetOf {bytes : List Byte} {size k : Nat} (h : (k + 1) * size ≤ bytes.length) :
    (packetOf bytes size k).length = size := by
  rw [Nat.succ_mul] at h
  rw [packetOf, List.length_take, List.length_drop]
  omega

theorem length_packetOf_le (bytes : List Byte) (size k : Nat) : (packetOf bytes size k).length ≤ size :=
  List.length_take_le _ _

theorem packetOf_last {bytes : List Byte} {size k : Nat} (h : bytes.length ≤ (k + 1) * size) :
    packetOf bytes size k = bytes.drop (k * size) := by
  rw [← packetOf_append_drop, List.drop_eq_nil_of_le h, List.append_nil]

/-! ## The pushes -/

section
variable (p : Port) (e : EpNo) (size : Nat) (r : WriteRet)

theorem writePush_boundary {b : Byte} {rest : List Byte} {i : Nat} {s : State} (hi : (i + 1) % size = 0) (hrest : rest ≠ []) :
    Reaches 1 [writeNext p e size (b :: rest) i r] s [.writeBoundary p e size rest (i + 1) r] (opInPushByte p b s) :=
  Reaches.step (if_pos ⟨hi, hrest⟩)

theorem writePush_within {b : Byte} {rest : List Byte} {i : Nat} {s : State} (h : ¬((i + 1) % size = 0 ∧ rest ≠ [])) :
    Reaches 1 [writeNext p e size (b :: rest) i r] s [writeNext p e size rest (i + 1) r] (opInPushByte p b s) :=
  Reaches.step (if_neg h)

/-- The next byte of a packet that it does not fill. -/
theorem mod_succ_of_lt {i : Nat} (h : i % size + 1 < size) : (i + 1) % size = i % size + 1 := by
  rw [← Nat.mod_add_mod, Nat.mod_eq_of_lt h]

/-- Bytes that fill a packet, with more to come: the boundary follows (R243). -/
theorem reaches_fullPushes {rest : List Byte} (hrest : rest ≠ []) :
    ∀ (c : List Byte) (i : Nat) (s : State), c ≠ [] → i % size + c.length = size →
      Reaches c.length [writeNext p e size (c ++ rest) i r] s [.writeBoundary p e size rest (i + c.length) r]
        (afterPushes p c s)
  | [], _, _, hc, _ => absurd rfl hc
  | [b], i, s, _, hfill => by
    have hmod : (i + 1) % size = 0 := by
      rw [← Nat.mod_add_mod, show i % size + 1 = size from hfill, Nat.mod_self]
    exact writePush_boundary p e size r hmod hrest
  | b :: b' :: c, i, s, _, hfill => by
    simp only [List.length_cons] at hfill
    have hmod := mod_succ_of_lt size (i := i) (by omega)
    have hpush : Reaches 1 [writeNext p e size (b :: (b' :: c ++ rest)) i r] s
        [writeNext p e size (b' :: c ++ rest) (i + 1) r] (opInPushByte p b s) :=
      writePush_within p e size r fun h => by omega
    have ih := reaches_fullPushes hrest (b' :: c) (i + 1) (opInPushByte p b s) (List.cons_ne_nil _ _)
      (by simp only [List.length_cons]; omega)
    rw [show i + (b :: b' :: c).length = i + 1 + (b' :: c).length by simp only [List.length_cons]; omega,
      List.length_cons, Nat.add_comm _ 1]
    exact hpush.trans ih

/-- The bytes of the last packet: the final commit follows. -/
theorem reaches_lastPushes :
    ∀ (c : List Byte) (i : Nat) (s : State), i % size + c.length ≤ size →
      Reaches c.length [writeNext p e size c i r] s [.writeFinal p e r] (afterPushes p c s)
  | [], _, _, _ => Reaches.refl _ _
  | [b], _, _, _ => writePush_within p e size r fun h => h.2 rfl
  | b :: b' :: c, i, s, hfit => by
    simp only [List.length_cons] at hfit
    have hmod := mod_succ_of_lt size (i := i) (by omega)
    have hpush : Reaches 1 [writeNext p e size (b :: b' :: c) i r] s [writeNext p e size (b' :: c) (i + 1) r]
        (opInPushByte p b s) := writePush_within p e size r fun h => by omega
    have ih := reaches_lastPushes (b' :: c) (i + 1) (opInPushByte p b s) (by simp only [List.length_cons]; omega)
    rw [List.length_cons, Nat.add_comm _ 1]
    exact hpush.trans ih

end

/-! ## The commits -/

/-- A packet in flight (R153). -/
def packetHeld (e : EpNo) (bytes : List Byte) (h : HwPort) : HwPort := { h with inFifo := bytes, inEpno := e, inFlight := true }

/-- The state after a packet is pushed into the empty FIFO and committed. -/
def afterPacket (p : Port) (e : EpNo) (bytes : List Byte) (s : State) : State :=
  writeHw p (packetHeld e bytes) [.inCommit p e bytes.length] s

theorem opInCommit_afterPushes {p : Port} {bytes : List Byte} {s : State} (hp : p < s.hw.length)
    (hempty : (hwOf s p).inFifo = []) (hfit : bytes.length ≤ s.cfg.inFifoDepth) (e : EpNo) :
    opInCommit p e (afterPushes p bytes s) = afterPacket p e bytes s := by
  have hdropped : updSw p (fun u => { u with ctrWriteOverflow :=
      u.ctrWriteOverflow + (bytes.length - (s.cfg.inFifoDepth - (hwOf s p).inFifo.length)) }) s = s :=
    updSw_id (by simp [hempty, Nat.sub_eq_zero_of_le hfit])
  have hfifo : pushBytes s.cfg.inFifoDepth (hwOf s p).inFifo bytes = bytes := by
    simp [pushBytes, hempty, List.take_of_length_le hfit]
  rw [afterPushes_eq p bytes s hp (by simp [hempty]), hdropped, opInCommit, hwOf_updHw_self hp, updHw_updHw]
  simp only [hfifo]
  exact congrArg (observe _) (updHw_congr (by simp [packetHeld, hfifo]))

section
variable {p : Port} {bytes : List Byte} {size j : Nat} {s : State} (hp : p < s.hw.length)
  (hempty : (hwOf s p).inFifo = []) (hdepth : size ≤ s.cfg.inFifoDepth)
include hp hempty hdepth

/-- One packet with more bytes behind it: it is pushed and committed, and the wait for the host begins (R243). -/
theorem reaches_packet (e : EpNo) (r : WriteRet) (hsize : 1 ≤ size) (hmore : (j + 1) * size < bytes.length) :
    Reaches (size + 1) [writeNext p e size (bytes.drop (j * size)) (j * size) r] s
      [.writePoll p e size (bytes.drop ((j + 1) * size)) ((j + 1) * size) 0 r] (afterPacket p e (packetOf bytes size j) s) := by
  have hlen := length_packetOf hmore.le
  have hne : packetOf bytes size j ≠ [] := List.ne_nil_of_length_pos (by omega)
  have hrest : bytes.drop ((j + 1) * size) ≠ [] := by simpa using hmore
  have hpushes := reaches_fullPushes p e size r hrest (packetOf bytes size j) (j * size) s hne (by simp [hlen])
  have hcommit : Reaches 1 [.writeBoundary p e size (bytes.drop ((j + 1) * size)) (j * size + size) r]
      (afterPushes p (packetOf bytes size j) s)
      [.writePoll p e size (bytes.drop ((j + 1) * size)) (j * size + size) 0 r]
      (opInCommit p e (afterPushes p (packetOf bytes size j) s)) := Reaches.step rfl
  rw [packetOf_append_drop, hlen] at hpushes
  rw [opInCommit_afterPushes hp hempty (hlen.trans_le hdepth)] at hcommit
  rw [← Nat.succ_mul] at hpushes hcommit
  exact hpushes.trans hcommit

/-- The last packet (R243). -/
theorem reaches_lastPacket (e : EpNo) (r : WriteRet) (hlast : bytes.length ≤ (j + 1) * size) :
    Reaches ((packetOf bytes size j).length + 1) [writeNext p e size (bytes.drop (j * size)) (j * size) r] s
      (writeOkTasks p r) (writeResult .writeOk r (afterPacket p e (packetOf bytes size j) s)) := by
  have hlen := length_packetOf_le bytes size j
  have hpushes := reaches_lastPushes p e size r (packetOf bytes size j) (j * size) s (by simpa using hlen)
  have hcommit : Reaches 1 [.writeFinal p e r] (afterPushes p (packetOf bytes size j) s) (writeOkTasks p r)
      (writeResult .writeOk r (opInCommit p e (afterPushes p (packetOf bytes size j) s))) := Reaches.step rfl
  rw [opInCommit_afterPushes hp hempty (hlen.trans hdepth)] at hcommit
  rw [← packetOf_last hlast]
  exact hpushes.trans hcommit

end

end Sys2Proof.Machine
end

section
/-! PROOFS. O60: a reply of more than one packet (44_control_engine.md R197; 45_endpoint_io.md R243, R245). After its packet `j`
the machine is `packetsOut … j`, one write of `HW[p]` and the trace `replyTrace`; the main agent waits there
(`waitingForHost`), and goes on once the host takes the packet or the budget is used up. -/

namespace Sys2Proof.Machine

/-! ## The packets that have gone out -/

/-- HOST_IN_TAKE on the registers (R161). -/
def packetTaken (c : Params) (e : EpNo) (h : HwPort) : HwPort :=
  setPidBit { h with inFifo := [], inFlight := false, pend := setSrcBit h.pend .inp true } .inp e
    (epWrite c e (!pidBit h .inp e))

/-- The registers while packet `j` is in flight and the host has taken those before it. -/
def replyHw (c : Params) (e : EpNo) (bytes : List Byte) (size : Nat) : Nat → HwPort → HwPort
  | 0 => packetHeld e (packetOf bytes size 0)
  | j + 1 => packetHeld e (packetOf bytes size (j + 1)) ∘ packetTaken c e ∘ replyHw c e bytes size j

/-- The trace up to the commit of packet `j`. -/
def replyTrace (p : Port) (e : EpNo) (bytes : List Byte) (size : Nat) : Nat → List Obs
  | 0 => [.inCommit p e (packetOf bytes size 0).length]
  | j + 1 => replyTrace p e bytes size j
      ++ [.inPacket p e (packetOf bytes size j), .inCommit p e (packetOf bytes size (j + 1)).length]

def packetsOut (p : Port) (e : EpNo) (bytes : List Byte) (size j : Nat) (s : State) : State :=
  writeHw p (replyHw s.cfg e bytes size j) (replyTrace p e bytes size j) s

/-- Packet `j` is in flight, and the main agent has polled `polls` times. -/
def waitingForHost (p : Port) (e : EpNo) (bytes : List Byte) (size : Nat) (r : WriteRet) (j polls : Nat) (s : State) : State :=
  { packetsOut p e bytes size j s with
    main := [.writePoll p e size (bytes.drop ((j + 1) * size)) ((j + 1) * size) polls r] }

/-- The host has taken packet `j`. -/
def afterTake (p : Port) (e : EpNo) (bytes : List Byte) (size j : Nat) (s : State) : State :=
  writeHw p (packetTaken s.cfg e) [.inPacket p e (packetOf bytes size j)] (packetsOut p e bytes size j s)

theorem commitsIn_replyTrace (p : Port) (e : EpNo) (bytes : List Byte) (size j : Nat) :
    commitsIn p e (replyTrace p e bytes size j) = (List.range (j + 1)).map fun k => (packetOf bytes size k).length := by
  induction j with
  | zero => simp [replyTrace, commitsIn]
  | succ j ih =>
    rw [List.range_succ, List.map_append, ← ih]
    simp [replyTrace, commitsIn]

theorem packetsIn_replyTrace (p : Port) (e : EpNo) (bytes : List Byte) (size j : Nat) :
    packetsIn p e (replyTrace p e bytes size j) = (List.range j).map (packetOf bytes size) := by
  induction j with
  | zero => simp [replyTrace, packetsIn]
  | succ j ih =>
    rw [List.range_succ, List.map_append, ← ih]
    simp [replyTrace, packetsIn]

section
variable (c : Params) (e : EpNo) (bytes : List Byte) (size j : Nat) (h : HwPort)

theorem replyHw_inFifo : (replyHw c e bytes size j h).inFifo = packetOf bytes size j := by cases j <;> rfl
theorem replyHw_inEpno : (replyHw c e bytes size j h).inEpno = e := by cases j <;> rfl
theorem replyHw_inFlight : (replyHw c e bytes size j h).inFlight = true := by cases j <;> rfl

/-- What neither the commit of a packet nor its taking writes. -/
theorem replyHw_field {α : Type} (π : HwPort → α) (hheld : ∀ b h, π (packetHeld e b h) = π h)
    (htaken : ∀ h, π (packetTaken c e h) = π h) : π (replyHw c e bytes size j h) = π h := by
  induction j with
  | zero => exact hheld _ _
  | succ j ih => exact (hheld _ _).trans ((htaken _).trans ih)

end

theorem portExists_writeHw (p q : Port) (f : HwPort → HwPort) (l : List Obs) (s : State) :
    portExists q (writeHw p f l s) = portExists q s :=
  Bool.eq_iff_iff.2 (by simp [portExists_iff, writeHw])

section
variable {p : Port} {s : State} (hp : portExists p s = true) (e : EpNo) (bytes : List Byte) (size j : Nat)
include hp

theorem portExists_packetsOut : portExists p (packetsOut p e bytes size j s) = true := (portExists_writeHw ..).trans hp

theorem hwOf_packetsOut : hwOf (packetsOut p e bytes size j s) p = replyHw s.cfg e bytes size j (hwOf s p) :=
  hwOf_writeHw hp _ _

theorem inFifo_packetsOut : (hwOf (packetsOut p e bytes size j s) p).inFifo = packetOf bytes size j :=
  (congrArg HwPort.inFifo (hwOf_packetsOut hp ..)).trans (replyHw_inFifo ..)

theorem inFifo_packetsOut_ne_nil {bytes : List Byte} {size j : Nat} (hsize : 1 ≤ size) (hfull : (j + 1) * size ≤ bytes.length) :
    (hwOf (packetsOut p e bytes size j s) p).inFifo ≠ [] := by
  rw [inFifo_packetsOut hp]
  exact List.ne_nil_of_length_pos (by rw [length_packetOf hfull]; omega)

theorem portExists_afterTake : portExists p (afterTake p e bytes size j s) = true :=
  (portExists_writeHw ..).trans (portExists_packetsOut hp ..)

theorem inFifo_afterTake : (hwOf (afterTake p e bytes size j s) p).inFifo = [] :=
  congrArg HwPort.inFifo (hwOf_writeHw (portExists_packetsOut hp ..) _ _)

end

theorem packetsOut_succ (p : Port) (e : EpNo) (bytes : List Byte) (size j : Nat) (s : State) :
    packetsOut p e bytes size (j + 1) s = afterPacket p e (packetOf bytes size (j + 1)) (afterTake p e bytes size j s) := by
  rw [afterPacket, afterTake, packetsOut, packetsOut, writeHw_writeHw, writeHw_writeHw]
  rfl

/-! ## The poll (R245) -/

section
variable {p : Port} {e : EpNo} {size i polls : Nat} {rest : List Byte} {s : State}

theorem inHasData_eq (hfifo : (hwOf s p).inFifo ≠ []) : opInHasData p s = true := by
  simpa [opInHasData, inHave] using hfifo

theorem writePoll_waits (r : WriteRet) (hfifo : (hwOf s p).inFifo ≠ []) (hleft : budgetUsed s.cfg (polls + 1) = false) :
    taskStep (.writePoll p e size rest i polls r) s = ⟨[.writePoll p e size rest i (polls + 1) r], s, true⟩ := by
  simp only [taskStep, writePollStep, inHasData_eq hfifo, hleft, if_true, Bool.false_eq_true, if_false]

theorem writePoll_expires (r : WriteRet) (hfifo : (hwOf s p).inFifo ≠ []) (hused : budgetUsed s.cfg (polls + 1) = true) :
    taskStep (.writePoll p e size rest i polls r) s = goOn [.log p .waitExpired, .writeExpired p r] s := by
  simp only [taskStep, writePollStep, inHasData_eq hfifo, hused, if_true]

theorem writePoll_taken (r : WriteRet) (hfifo : (hwOf s p).inFifo = []) :
    taskStep (.writePoll p e size rest i polls r) s = goOn [writeNext p e size rest i r] s := by
  simp [taskStep, writePollStep, opInHasData, inHave, hfifo]

/-- A reply whose wait expired is rejected (R197, R245). -/
theorem done_writeExpired (hfifo : (hwOf s p).inFifo ≠ []) (hused : budgetUsed s.cfg (polls + 1) = true) :
    Done 7 [.writePoll p e size rest i polls .response] s (afterStall p (logPort p .waitExpired s)) := by
  have hlog : taskStep (.log p .waitExpired) s = goOn [] (logPort p .waitExpired s) := rfl
  have hreject : taskStep (.writeExpired p .response) (logPort p .waitExpired s)
      = goOn [.stallControlRequest p] (logPort p .waitExpired s) := rfl
  exact .step (writePoll_expires .response hfifo hused) (.step hlog (.step hreject (done_stall p _)))

end

theorem budgetUsed_of_some {c : Params} {b polls : Nat} (h : c.writeWaitBudget = some b) :
    budgetUsed c polls = decide (b ≤ polls) := by
  simp only [budgetUsed, h]

/-- A turn that begins with no work suspended and no result stored begins where the machine stands. -/
theorem turnStart_eq {s : State} (hmain : s.main = []) (hret : s.ret = .nothing) :
    setRet .nothing { s with main := [] } = s := by
  rw [← hmain, setRet, ← hret]

/-! ## The turns while a reply goes out -/

section
variable {p : Port} {a : DevAddr} {e : EpNo} {bytes : List Byte} {size : Nat} {r : WriteRet} {s : State} (hs : Ready p s)
  (hmain : s.main = []) (hret : s.ret = .nothing)
include hs

/-- HOST_IN_TAKE of the packet in flight (R161). -/
theorem exec_hostInTake_waiting (hconnect : (hwOf s p).connect = true) (haddr : a = (hwOf s p).epcAddress)
    (hstall : stallBit (hwOf s p) .inp e = false) (j polls : Nat) :
    exec (.hostInTake p a e) (waitingForHost p e bytes size r j polls s)
      = .next (setRet .nothing (hostInMove p e (waitingForHost p e bytes size r j polls s))) := by
  have hguard : hostInGuard p a e (waitingForHost p e bytes size r j polls s) = true := by
    have hhw : hwOf (waitingForHost p e bytes size r j polls s) p = replyHw s.cfg e bytes size j (hwOf s p) :=
      hwOf_packetsOut hs.1 ..
    have hc := replyHw_field s.cfg e bytes size j (hwOf s p) HwPort.connect (fun _ _ => rfl) (fun _ => rfl)
    have ha := replyHw_field s.cfg e bytes size j (hwOf s p) HwPort.epcAddress (fun _ _ => rfl) (fun _ => rfl)
    have hb := replyHw_field s.cfg e bytes size j (hwOf s p) (stallBit · .inp e) (fun _ _ => rfl) (fun _ => rfl)
    simp [hostInGuard, hhw, hc, ha, hb, replyHw_inEpno, replyHw_inFlight, hconnect, haddr, hstall]
  have hport : portExists p (waitingForHost p e bytes size r j polls s) = true := portExists_packetsOut hs.1 e bytes size j
  exact (onPort_exists hport).trans (busMove_enabled hguard)

include hmain hret

/-- The main agent's turn then begins with the FIFO empty. -/
theorem turnStart_taken (j polls : Nat) :
    setRet .nothing { setRet .nothing (hostInMove p e (waitingForHost p e bytes size r j polls s)) with main := [] }
      = afterTake p e bytes size j s := by
  have hfifo : (hwOf (waitingForHost p e bytes size r j polls s) p).inFifo = packetOf bytes size j :=
    inFifo_packetsOut hs.1 ..
  rw [hostInMove, hfifo]
  exact turnStart_eq (s := afterTake p e bytes size j s) hmain hret

/-- Its work comes to the bytes behind that packet. -/
theorem reaches_taken (j polls : Nat) {k : Nat} {ts : List Task} {t : State}
    (h : Reaches k [writeNext p e size (bytes.drop ((j + 1) * size)) ((j + 1) * size) r] (afterTake p e bytes size j s) ts t) :
    Reaches (1 + k) (mainWork (setRet .nothing (hostInMove p e (waitingForHost p e bytes size r j polls s))))
      (setRet .nothing { setRet .nothing (hostInMove p e (waitingForHost p e bytes size r j polls s)) with main := [] })
      ts t := by
  rw [turnStart_taken hs hmain hret]
  exact (Reaches.step (writePoll_taken r (inFifo_afterTake hs.1 ..))).trans h

/-- Nobody takes packet `j`: the main agent polls until the budget is used up, and the reply is rejected (R245). -/
theorem mainSteps_expiry (hsize : 1 ≤ size) {j : Nat} (hfull : (j + 1) * size ≤ bytes.length) (hturn : 7 ≤ turnLength s)
    (m polls : Nat) (hbudget : s.cfg.writeWaitBudget = some (polls + m + 1)) :
    mainSteps (m + 1) (waitingForHost p e bytes size .response j polls s)
      = .next (afterStall p (logPort p .waitExpired (packetsOut p e bytes size j s))) := by
  have hheld := inFifo_packetsOut_ne_nil hs.1 e hsize hfull
  have hstart (polls : Nat) : setRet .nothing { waitingForHost p e bytes size .response j polls s with main := [] }
      = packetsOut p e bytes size j s := turnStart_eq (s := packetsOut p e bytes size j s) hmain hret
  induction m generalizing polls with
  | zero =>
    have hused : budgetUsed s.cfg (polls + 1) = true := by simp [budgetUsed_of_some hbudget]
    obtain ⟨k, hk, hdone⟩ := done_writeExpired (s := packetsOut p e bytes size j s) (e := e) (size := size)
      (rest := bytes.drop ((j + 1) * size)) (i := (j + 1) * size) hheld hused
    have hturn : exec .mainStep (waitingForHost p e bytes size .response j polls s)
        = .next (afterStall p (logPort p .waitExpired (packetsOut p e bytes size j s))) :=
      mainTurn_run hs.2 (hstart polls ▸ hdone) (hk.trans hturn)
    simp only [mainSteps, hturn]
  | succ m ih =>
    have hleft : budgetUsed s.cfg (polls + 1) = false := by simp [budgetUsed_of_some hbudget]
    have hwait : exec .mainStep (waitingForHost p e bytes size .response j polls s)
        = .next (waitingForHost p e bytes size .response j (polls + 1) s) :=
      mainTurn_waits hs.2 (hstart polls ▸ Reaches.refl _ _) (writePoll_waits .response hheld hleft)
        (show 0 < turnLength s by omega)
    have hrest := ih (polls + 1) (by rw [hbudget]; congr 1; omega)
    rw [mainSteps, hwait]
    exact hrest

variable (hdepth : size ≤ s.cfg.inFifoDepth)
include hdepth

/-- The host took packet `j`, and the next one is not the last: it goes out, and the main agent waits again. -/
theorem exec_mainStep_nextPacket (hsize : 1 ≤ size) (hturn : size + 3 ≤ turnLength s)
    (hleft : budgetUsed s.cfg 1 = false) {j : Nat} (hmore : (j + 2) * size < bytes.length) (polls : Nat) :
    exec .mainStep (setRet .nothing (hostInMove p e (waitingForHost p e bytes size r j polls s)))
      = .next (waitingForHost p e bytes size r (j + 1) 1 s) := by
  have hpacket := reaches_packet (portExists_iff.1 (portExists_afterTake hs.1 e bytes size j)).1 (inFifo_afterTake hs.1 ..)
    hdepth e r hsize hmore
  have hheld := inFifo_packetsOut_ne_nil hs.1 e hsize hmore.le
  rw [← packetsOut_succ] at hpacket
  refine mainTurn_waits hs.2 (reaches_taken hs hmain hret j polls hpacket) (writePoll_waits r hheld hleft) ?_
  change 1 + (size + 1) < turnLength s
  omega

/-- The host took packet `j`, and the next one is the last: it goes out, and the reply is over. -/
theorem exec_mainStep_lastPacket {j n : Nat} {t : State} (hlast : bytes.length ≤ (j + 2) * size) (polls : Nat)
    (hend : Done n (writeOkTasks p r) (writeResult .writeOk r (packetsOut p e bytes size (j + 1) s)) t)
    (hturn : size + 2 + n ≤ turnLength s) :
    exec .mainStep (setRet .nothing (hostInMove p e (waitingForHost p e bytes size r j polls s))) = .next t := by
  have hpacket := reaches_lastPacket (portExists_iff.1 (portExists_afterTake hs.1 e bytes size j)).1 (inFifo_afterTake hs.1 ..)
    hdepth e r hlast
  have hlen := length_packetOf_le bytes size (j + 1)
  rw [← packetsOut_succ] at hpacket
  obtain ⟨k, hk, hdone⟩ := hend
  refine mainTurn_run hs.2 ((reaches_taken hs hmain hret j polls hpacket).trans hdone) ?_
  change _ ≤ turnLength s
  omega

/-- The host takes each packet after the turn that committed it: the reply goes out packet by packet (R243). -/
theorem takeAndGoOn_reply (hconnect : (hwOf s p).connect = true) (haddr : a = (hwOf s p).epcAddress)
    (hstall : stallBit (hwOf s p) .inp e = false) (hsize : 1 ≤ size) (hleft : budgetUsed s.cfg 1 = false)
    (m n : Nat) (hturn : size + 3 + n ≤ turnLength s) (j polls : Nat) (t : State) (hmore : (j + m + 1) * size < bytes.length)
    (hlast : bytes.length ≤ (j + m + 2) * size)
    (hend : Done n (writeOkTasks p r) (writeResult .writeOk r (packetsOut p e bytes size (j + m + 1) s)) t) :
    takeAndGoOn p a e (m + 1) (waitingForHost p e bytes size r j polls s) = .next t := by
  have htake (j polls : Nat) :=
    exec_hostInTake_waiting (bytes := bytes) (size := size) (r := r) hs hconnect haddr hstall j polls
  induction m generalizing j polls with
  | zero =>
    simp only [takeAndGoOn, htake, exec_mainStep_lastPacket hs hmain hret hdepth hlast polls hend (by omega)]
  | succ m ih =>
    have hnext : (j + 2) * size < bytes.length := (Nat.mul_le_mul_right size (by omega)).trans_lt hmore
    have hj : j + 1 + m = j + (m + 1) := by omega
    have hrest := ih (j + 1) 1 (hj ▸ hmore) (hj ▸ hlast) (hj ▸ hend)
    rw [takeAndGoOn, htake]
    simp only [exec_mainStep_nextPacket hs hmain hret hdepth hsize (by omega) hleft hnext polls, hrest]

end

/-! ## SEND_RESPONSE -/

/-- The state in which SEND_RESPONSE begins to write (R197). -/
def replyBegun (p : Port) (s : State) : State := swWrite p (.cp .dataIn) (setRet .nothing s)

theorem Ready.replyBegun {p : Port} {s : State} (hs : Ready p s) : Ready p (Machine.replyBegun p s) := by
  refine ⟨portExists_iff.2 ⟨hs.lt_hw, ?_⟩, hs.2⟩
  simpa [Machine.replyBegun, swWrite] using hs.lt_sw

/-- SEND_RESPONSE up to the commit of the first of several packets. -/
theorem reaches_firstPacket {p : Port} {bytes : List Byte} {size : Nat} {s : State} (hs : Ready p s)
    (hempty : (hwOf s p).inFifo = []) (hsize : size = mpsOf s.cfg (swOf s p).speed) (hone : 1 ≤ size)
    (hdepth : size ≤ s.cfg.inFifoDepth) (hmore : size < (replyBytes p s bytes).length) :
    Reaches (size + 4) [.sendResponse p bytes] (setRet .nothing s)
      [.writePoll p 0 size ((replyBytes p s bytes).drop ((0 + 1) * size)) ((0 + 1) * size) 0 .response]
      (packetsOut p 0 (replyBytes p s bytes) size 0 (replyBegun p s)) := by
  have htasks : sendResponseTasks p (setRet .nothing s) bytes
      = [.sw p (.cp .dataIn), .writeStart p 0 (replyBytes p s bytes) size .response] := by
    have hlen : (latched s p).length.toNat ≠ 0 := by
      rw [replyBytes, List.length_take] at hmore
      omega
    have hcut : bytes.take (min (latched s p).length.toNat bytes.length) = replyBytes p s bytes := by
      simp [replyBytes, List.take_eq_take_iff]
    rw [sendResponseTasks, latched_setRet, if_neg hlen, hcut, hsize]
    rfl
  have hbegin : Reaches 2 [.sendResponse p bytes] (setRet .nothing s)
      [.writeStart p 0 (replyBytes p s bytes) size .response] (replyBegun p s) := by
    have hchoose : taskStep (.sendResponse p bytes) (setRet .nothing s)
        = goOn [.sw p (.cp .dataIn), .writeStart p 0 (replyBytes p s bytes) size .response] (setRet .nothing s) :=
      congrArg (goOn · (setRet .nothing s)) htasks
    have hwrite : taskStep (.sw p (.cp .dataIn)) (setRet .nothing s) = goOn [] (replyBegun p s) := rfl
    exact (Reaches.step hchoose).trans (Reaches.head hwrite)
  have hstart : Reaches 1 [.writeStart p 0 (replyBytes p s bytes) size .response] (replyBegun p s)
      [writeNext p 0 size (replyBytes p s bytes) 0 .response] (replyBegun p s) :=
    Reaches.step (if_neg (by simpa [opInHasData, inHave, replyBegun, swWrite] using hempty))
  have hpacket := reaches_packet (j := 0) hs.replyBegun.lt_hw hempty hdepth 0 .response hone (by simpa using hmore)
  rw [Nat.zero_mul, List.drop_zero] at hpacket
  rw [show size + 4 = 2 + 1 + (size + 1) by omega]
  exact (hbegin.trans hstart).trans hpacket

/-- A reply of more than one packet has at least two; all but the last are full (R243). -/
theorem packetCount_eq {len size count : Nat} (hone : 1 ≤ size) (hmore : size < len)
    (hcount : count = (len + size - 1) / size) :
    ∃ m, count = m + 2 ∧ (m + 1) * size < len ∧ len ≤ (m + 2) * size := by
  have htwo : 2 ≤ count := hcount ▸ (Nat.le_div_iff_mul_le hone).2 (by omega)
  have hlow : count * size ≤ len + size - 1 := hcount ▸ Nat.div_mul_le_self ..
  have hhigh : len + size - 1 < count * size + size := hcount ▸ Nat.lt_div_mul_add hone
  obtain ⟨m, rfl⟩ := Nat.exists_eq_add_of_le' htwo
  refine ⟨m, rfl, ?_, ?_⟩
  · rw [Nat.succ_mul] at hlow
    omega
  · omega

/-! ## The two ends of such a reply -/

theorem swOf_writeHw (p q : Port) (f : HwPort → HwPort) (l : List Obs) (s : State) : swOf (writeHw p f l s) q = swOf s q := rfl

theorem swOf_packetsOut (p q : Port) (e : EpNo) (bytes : List Byte) (size j : Nat) (s : State) :
    swOf (packetsOut p e bytes size j s) q = swOf s q := rfl

theorem g_packetsOut (p : Port) (e : EpNo) (bytes : List Byte) (size j : Nat) (s : State) :
    (packetsOut p e bytes size j s).g = { s.g with obs := s.g.obs ++ replyTrace p e bytes size j } := rfl

theorem hwOf_afterStatusOut {p : Port} {s : State} (hp : portExists p s = true) :
    hwOf (afterStatusOut p s) p = hwPrimed (epWrite s.cfg 0 true) (hwOf s p) :=
  hwOf_updHw_self (f := hwPrimed (epWrite s.cfg 0 true)) (portExists_iff.1 hp).1

theorem swOf_afterStatusOut {p : Port} {s : State} (hp : portExists p s = true) :
    swOf (afterStatusOut p s) p = { swOf s p with cp := .statusOut } :=
  swOf_updSw_self (s := opOutPrime p 0 s) (portExists_iff.1 hp).2

/-- The rejection after an expired wait, as one write to either side of the port (R196, R245). -/
theorem afterExpiry_eq (p : Port) (s : State) : afterStall p (logPort p .waitExpired s)
    = writeHw p (hwStalled (epWrite s.cfg 0 true)) [.stallSet p .inp 0, .stallSet p .out 0]
      (updSw p (fun u => { u with ctrWaitExpired := u.ctrWaitExpired + 1, cp := .idle }) s) := by
  rw [afterStall_eq, logPort, updSw_updSw]
  rfl

theorem hwOf_afterExpiry {p : Port} {s : State} (hp : portExists p s = true) :
    hwOf (afterStall p (logPort p .waitExpired s)) p = hwStalled (epWrite s.cfg 0 true) (hwOf s p) := by
  rw [afterExpiry_eq]
  exact hwOf_updHw_self (portExists_iff.1 hp).1

theorem swOf_afterExpiry {p : Port} {s : State} (hp : portExists p s = true) :
    swOf (afterStall p (logPort p .waitExpired s)) p
      = { swOf s p with ctrWaitExpired := (swOf s p).ctrWaitExpired + 1, cp := .idle } := by
  rw [afterExpiry_eq, swOf_writeHw, swOf_updSw_self (portExists_iff.1 hp).2]

theorem g_afterExpiry (p : Port) (s : State) : (afterStall p (logPort p .waitExpired s)).g
    = { s.g with obs := s.g.obs ++ [.stallSet p .inp 0, .stallSet p .out 0] } :=
  congrArg State.g (afterExpiry_eq p s)

section
variable {p : Port} {bytes : List Byte} {size : Nat} {s : State} (hs : Ready p s) (hmain : s.main = [])
  (hempty : (hwOf s p).inFifo = []) (hdir : directionOf (latched s p) = .deviceToHost)
  (hsize : size = mpsOf s.cfg (swOf s p).speed) (hone : 1 ≤ size) (hdepth : size ≤ s.cfg.inFifoDepth)
  (hmore : size < (replyBytes p s bytes).length) (hturn : size + 14 ≤ turnLength s)
include hs

theorem swOf_replyBegun : swOf (replyBegun p s) p = { swOf s p with cp := .dataIn } :=
  swOf_updSw_self (s := setRet .nothing s) hs.lt_sw

/-- After the last packet, endpoint 0 is primed for the status stage (R195, R197). -/
theorem done_lastPacket (hdir : directionOf (latched s p) = .deviceToHost) (reply : List Byte) (j : Nat) :
    Done 7 (writeOkTasks p .response) (writeResult .writeOk .response (packetsOut p 0 reply size j (replyBegun p s)))
      (afterStatusOut p (packetsOut p 0 reply size j (replyBegun p s))) := by
  have hdir' : directionOf (latched (packetsOut p 0 reply size j (replyBegun p s)) p) = .deviceToHost := by
    rw [latched, swOf_packetsOut, swOf_replyBegun hs]
    exact hdir
  rw [← afterAck_of_deviceToHost hdir']
  exact done_ack (portExists_iff.1 (portExists_packetsOut hs.replyBegun.1 ..)).1

include hmain hempty hsize hone hdepth hmore hturn

/-- The turn of SEND_RESPONSE ends at the first poll, unless that uses the budget up. -/
theorem exec_sendResponse_waits (hleft : budgetUsed s.cfg 1 = false) : exec (.sendResponse p bytes) s
    = .next (waitingForHost p 0 (replyBytes p s bytes) size .response 0 1 (replyBegun p s)) := by
  have hheld := inFifo_packetsOut_ne_nil (bytes := replyBytes p s bytes) (j := 0) hs.replyBegun.1 0 hone (by omega)
  have hstart := startMain_waits hs.2 (reaches_firstPacket hs hempty hsize hone hdepth hmore)
    (writePoll_waits .response hheld hleft) (by omega)
  rw [hmain] at hstart
  exact (onPort_exists hs.1).trans hstart

include hdir

/-- The host takes each packet: the whole reply goes out, and the status stage follows. -/
theorem exec_sendResponse_taken {a : DevAddr} {m : Nat} (hconnect : (hwOf s p).connect = true)
    (haddr : a = (hwOf s p).epcAddress) (hstall : stallBit (hwOf s p) .inp 0 = false) (hleft : budgetUsed s.cfg 1 = false)
    (hlt : (m + 1) * size < (replyBytes p s bytes).length) (hle : (replyBytes p s bytes).length ≤ (m + 2) * size) :
    ∃ t0 : State, exec (.sendResponse p bytes) s = .next t0 ∧ takeAndGoOn p a 0 (m + 1) t0
      = .next (afterStatusOut p (packetsOut p 0 (replyBytes p s bytes) size (m + 1) (replyBegun p s))) := by
  have hgo := takeAndGoOn_reply (bytes := replyBytes p s bytes) (r := .response) hs.replyBegun hmain rfl
    hdepth hconnect haddr hstall hone hleft m 7 (show size + 3 + 7 ≤ turnLength s by omega) 0 1 (afterStatusOut p
      (packetsOut p 0 (replyBytes p s bytes) size (m + 1) (replyBegun p s)))
  simp only [Nat.zero_add] at hgo
  exact ⟨_, exec_sendResponse_waits hs hmain hempty hsize hone hdepth hmore hturn hleft,
    hgo hlt hle (done_lastPacket hs hdir (replyBytes p s bytes) (m + 1))⟩

omit hdir

/-- The host takes none, and the budget is used up: the reply is rejected. -/
theorem exec_sendResponse_expires {b : Nat} (hbudget : s.cfg.writeWaitBudget = some (b + 1)) :
    ∃ t0 : State, exec (.sendResponse p bytes) s = .next t0 ∧ mainSteps b t0
      = .next (afterStall p (logPort p .waitExpired (packetsOut p 0 (replyBytes p s bytes) size 0 (replyBegun p s)))) := by
  have hfull : (0 + 1) * size ≤ (replyBytes p s bytes).length := by omega
  cases b with
  | zero =>
    have hheld := inFifo_packetsOut_ne_nil hs.replyBegun.1 0 hone hfull
    have hused : budgetUsed s.cfg (0 + 1) = true := by simp [budgetUsed_of_some hbudget]
    exact ⟨_, hs.turn rfl (.after (reaches_firstPacket hs hempty hsize hone hdepth hmore) (done_writeExpired hheld hused))
      (by omega), rfl⟩
  | succ m =>
    have hleft : budgetUsed s.cfg 1 = false := by simp [budgetUsed_of_some hbudget]
    refine ⟨_, exec_sendResponse_waits hs hmain hempty hsize hone hdepth hmore hturn hleft, ?_⟩
    exact mainSteps_expiry hs.replyBegun hmain rfl hone hfull (show 7 ≤ turnLength s by omega) m 1
      (by rw [Nat.add_comm 1]; exact hbudget)

end

/-- Settles O60: the first packet goes out in the turn of SEND_RESPONSE, the others in turns of their own; or the wait for the
host expires. -/
theorem sendResponseManyPackets : Obligations.SendResponseManyPackets := by
  intro p bytes reply size s hs hmain hempty hdir hreply hsize hone hdepth hmore hturn
  obtain rfl : reply = replyBytes p s bytes := hreply
  have hport := portExists_packetsOut hs.replyBegun.1 0 (replyBytes p s bytes) size
  refine ⟨fun a count hconnect haddr hstall hbudget hcount => ?taken, fun b hbudget => ?expired⟩
  case taken =>
    have hleft : budgetUsed s.cfg 1 = false := by
      cases hb : s.cfg.writeWaitBudget with
      | none => simp only [budgetUsed, hb]
      | some b => exact (budgetUsed_of_some hb).trans (decide_eq_false (Nat.not_le.2 (hbudget b hb)))
    obtain ⟨m, rfl, hlt, hle⟩ := packetCount_eq hone hmore hcount
    obtain ⟨t0, ht0, ht⟩ :=
      exec_sendResponse_taken hs hmain hempty hdir hsize hone hdepth hmore hturn hconnect haddr hstall hleft hlt hle
    have hhw := (hwOf_afterStatusOut (hport (m + 1))).trans (congrArg _ (hwOf_packetsOut hs.replyBegun.1 ..))
    refine ⟨t0, _, replyTrace p 0 (replyBytes p s bytes) size (m + 1), ht0, ht, hmain, rfl, commitsIn_replyTrace ..,
      packetsIn_replyTrace .., ?_, ?_, ?_, ?_, ?_⟩
    · rw [hhw]
      exact replyHw_inFifo ..
    · rw [hhw]
      exact replyHw_inEpno ..
    · rw [hhw]
      exact replyHw_inFlight ..
    · rw [hhw]
      exact (epBit_setEpBit ..).trans (if_pos rfl)
    · rw [swOf_afterStatusOut (hport (m + 1)), swOf_packetsOut, swOf_replyBegun hs]
  case expired =>
    obtain ⟨t0, ht0, ht⟩ := exec_sendResponse_expires hs hmain hempty hsize hone hdepth hmore hturn hbudget
    have hlen := length_packetOf (bytes := replyBytes p s bytes) (size := size) (k := 0) (by omega)
    refine ⟨t0, _, ht0, ht, hmain, ?_, ?_, ?_⟩
    · rw [g_afterExpiry, g_packetsOut, replyTrace, hlen, List.append_assoc]
      rfl
    · rw [hwOf_afterExpiry (hport 0), hwOf_packetsOut hs.replyBegun.1, replyHw, packetOf, Nat.zero_mul, List.drop_zero]
      rfl
    · rw [swOf_afterExpiry (hport 0), swOf_packetsOut, swOf_replyBegun hs]

end Sys2Proof.Machine
end

section
/-! PROOFS. O49 to O52: the endpoint I/O primitives (45_endpoint_io.md). READ and a WRITE of one packet are the chains
`reaches_read` and `reaches_write`, from the state in which no result is stored yet. A longer WRITE is, after its packet `j`,
in the state `packetsOut … j`, as SEND_RESPONSE's is; it differs from that in what follows its two ends. -/

namespace Sys2Proof.Machine

/-! ## READ (R240, R241, R246) -/

theorem afterRead_setRet (r : Ret) (p : Port) (f : ReadFifo) (len : Nat) (s : State) :
    afterRead p f len (setRet r s) = setRet r (afterRead p f len s) := rfl

theorem setRet_setRet (r r' : Ret) (s : State) : setRet r (setRet r' s) = setRet r s := rfl

theorem exec_read {p : Port} {s : State} (hs : Ready p s) (f : ReadFifo) (len : Nat)
    (hturn : 2 * (fifoOf (hwOf s p) f).length + 2 ≤ turnLength s) :
    exec (.read p f len) s = .next (setRet (.read ((fifoOf (hwOf s p) f).take len)
      (min len (fifoOf (hwOf s p) f).length) ((fifoOf (hwOf s p) f).length - len)) (afterRead p f len s)) := by
  have hread := reaches_read p f len .toCaller (setRet .nothing s)
  rw [readResult, afterRead_setRet, setRet_setRet] at hread
  rw [← List.length_take]
  exact hs.turn rfl (.ofReaches hread) hturn

/-- Settles O49: the chain of READ fits in its turn; READ_CONTROL is the READ of eight bytes from the control FIFO. -/
theorem readDrainsFifo : Obligations.ReadDrainsFifo := by
  intro p s hs
  exact ⟨exec_read hs, exec_read hs .ctrl 8⟩

/-! ## WRITE of one packet (R242, R244) -/

theorem afterStaleCheck_setRet (r : Ret) (p : Port) (s : State) :
    afterStaleCheck p (setRet r s) = setRet r (afterStaleCheck p s) := by
  rw [afterStaleCheck, afterStaleCheck, apply_ite (setRet r)]
  rfl

theorem afterWrite_setRet (r : Ret) (p : Port) (e : EpNo) (bytes : List Byte) (s : State) :
    afterWrite p e bytes (setRet r s) = setRet r (afterWrite p e bytes s) := by
  rw [afterWrite, afterStaleCheck_setRet]
  rfl

theorem exec_write_onePacket {p : Port} {s : State} (hs : Ready p s) (e : EpNo) (bytes : List Byte) (size : Nat)
    (hone : bytes.length ≤ size) (hturn : bytes.length + 4 ≤ turnLength s) :
    exec (.write p e bytes size) s = .next (setRet .writeOk (afterWrite p e bytes s)) := by
  obtain ⟨k, hk, hwrite⟩ := reaches_write p e bytes size .toCaller (setRet .nothing s) hone hs.lt_hw
  rw [writeResult, afterWrite_setRet, setRet_setRet] at hwrite
  exact hs.turn rfl ⟨k, hk, hwrite⟩ hturn

/-- Settles O50: the chain of WRITE fits in its turn; WRITE_ZLP is the WRITE of no bytes. -/
theorem writeOnePacket : Obligations.WriteOnePacket := by
  intro p e s hs
  exact ⟨exec_write_onePacket hs e, exec_write_onePacket hs e [] 1 (Nat.zero_le 1)⟩

/-! ## WRITE up to its first commit -/

section
variable {p : Port} {e : EpNo} {bytes : List Byte} {size : Nat} {s : State}

/-- No stale byte stands in the FIFO: the bytes follow at once (R242). -/
theorem reaches_writeStart_empty (hempty : (hwOf s p).inFifo = []) (r : WriteRet) :
    Reaches 1 [.writeStart p e bytes size r] s [writeNext p e size bytes 0 r] s :=
  Reaches.step (if_neg (by simpa [opInHasData, inHave] using hempty))

variable (hs : Ready p s) (hempty : (hwOf s p).inFifo = []) (hdepth : size ≤ s.cfg.inFifoDepth)
include hs hempty hdepth

/-- More bytes than one packet: the first packet is committed, and the wait for the host begins (R243). -/
theorem reaches_write_firstPacket (hone : 1 ≤ size) (hmore : size < bytes.length) (r : WriteRet) :
    Reaches (size + 2) [.writeStart p e bytes size r] s
      [.writePoll p e size (bytes.drop ((0 + 1) * size)) ((0 + 1) * size) 0 r] (packetsOut p e bytes size 0 s) := by
  have hpacket := reaches_packet (j := 0) hs.lt_hw hempty hdepth e r hone (by simpa using hmore)
  rw [Nat.zero_mul, List.drop_zero] at hpacket
  rw [show size + 2 = 1 + (size + 1) by omega]
  exact (reaches_writeStart_empty hempty r).trans hpacket

/-- At most one packet: WRITE is over (R243). -/
theorem done_write_onlyPacket (hfits : bytes.length ≤ size) :
    Done (size + 2) [.writeStart p e bytes size .toCaller] s (setRet .writeOk (packetsOut p e bytes size 0 s)) := by
  have hpacket := reaches_lastPacket (j := 0) hs.lt_hw hempty hdepth e .toCaller (by simpa using hfits)
  have hlen := length_packetOf_le bytes size 0
  rw [Nat.zero_mul, List.drop_zero] at hpacket
  exact (Done.ofReaches ((reaches_writeStart_empty hempty .toCaller).trans hpacket)).mono (by omega)

/-- The turn of a WRITE of more bytes ends at its first poll, unless that uses the budget up (R245). -/
theorem exec_write_waits (hmain : s.main = []) (hone : 1 ≤ size) (hmore : size < bytes.length)
    (hturn : size + 3 ≤ turnLength s) (hleft : budgetUsed s.cfg 1 = false) : exec (.write p e bytes size) s
      = .next (waitingForHost p e bytes size .toCaller 0 1 (setRet .nothing s)) := by
  have hheld := inFifo_packetsOut_ne_nil (bytes := bytes) (s := setRet .nothing s) (j := 0) hs.1 e hone (by omega)
  have hstart := startMain_waits hs.2 (reaches_write_firstPacket (s := setRet .nothing s) hs hempty hdepth hone hmore .toCaller)
    (writePoll_waits .toCaller hheld hleft) hturn
  rw [hmain] at hstart
  exact (onPort_exists hs.1).trans hstart

end

/-! ## The host takes nothing (R245) -/

theorem mainSteps_add {m : Nat} {s t : State} (h : mainSteps m s = .next t) (n : Nat) :
    mainSteps (m + n) s = mainSteps n t := by
  induction m generalizing s with
  | zero =>
    cases h
    rw [Nat.zero_add]
  | succ m ih =>
    rw [Nat.succ_add]
    rw [mainSteps] at h ⊢
    cases hturn : exec .mainStep s with
    | next u =>
      rw [hturn] at h
      exact ih h
    | fault r =>
      rw [hturn] at h
      cases h
    | refused r =>
      rw [hturn] at h
      cases h

/-- WRITE returns `expired`, and counts it (R245). -/
theorem done_write_expired {p : Port} {e : EpNo} {size i polls : Nat} {rest : List Byte} {s : State}
    (hfifo : (hwOf s p).inFifo ≠ []) (hused : budgetUsed s.cfg (polls + 1) = true) :
    Done 3 [.writePoll p e size rest i polls .toCaller] s (setRet .writeExpired (logPort p .waitExpired s)) := by
  have hlog : taskStep (.log p .waitExpired) s = goOn [] (logPort p .waitExpired s) := rfl
  have hreturn : taskStep (.writeExpired p .toCaller) (logPort p .waitExpired s)
      = goOn [] (setRet .writeExpired (logPort p .waitExpired s)) := rfl
  exact .step (writePoll_expires .toCaller hfifo hused) (.step hlog (.step hreturn (.nil 0 _)))

section
variable {p : Port} {e : EpNo} {bytes : List Byte} {size j : Nat} {s : State} (hs : Ready p s)
  (hmain : s.main = []) (hret : s.ret = .nothing) (hone : 1 ≤ size) (hfull : (j + 1) * size ≤ bytes.length)
include hmain hret

/-- The turn of a main agent that waits for the host begins with packet `j` still in flight. -/
theorem turnStart_waiting (r : WriteRet) (polls : Nat) :
    setRet .nothing { waitingForHost p e bytes size r j polls s with main := [] } = packetsOut p e bytes size j s :=
  turnStart_eq (s := packetsOut p e bytes size j s) hmain hret

include hs hone hfull

/-- One poll a turn (log 26). -/
theorem exec_mainStep_polls (r : WriteRet) {polls : Nat} (hturn : 1 ≤ turnLength s)
    (hleft : budgetUsed s.cfg (polls + 1) = false) : exec .mainStep (waitingForHost p e bytes size r j polls s)
      = .next (waitingForHost p e bytes size r j (polls + 1) s) :=
  mainTurn_waits hs.2 (turnStart_waiting hmain hret r polls ▸ Reaches.refl _ _)
    (writePoll_waits r (inFifo_packetsOut_ne_nil hs.1 e hone hfull) hleft) hturn

/-- While the budget is not used up, nothing but the count of the polls changes. -/
theorem mainSteps_polls (r : WriteRet) (hturn : 1 ≤ turnLength s) (n polls : Nat)
    (hleft : ∀ i, i ≤ polls + n → budgetUsed s.cfg i = false) :
    mainSteps n (waitingForHost p e bytes size r j polls s) = .next (waitingForHost p e bytes size r j (polls + n) s) := by
  induction n with
  | zero => rfl
  | succ n ih =>
    have hpoll := exec_mainStep_polls (e := e) hs hmain hret hone hfull r (polls := polls + n) hturn (hleft _ le_rfl)
    rw [mainSteps_add (ih fun i hi => hleft i (by omega)) 1, mainSteps, hpoll]
    rfl

/-- The poll that uses the budget up. -/
theorem exec_mainStep_expires {polls : Nat} (hturn : 3 ≤ turnLength s) (hused : budgetUsed s.cfg (polls + 1) = true) :
    exec .mainStep (waitingForHost p e bytes size .toCaller j polls s)
      = .next (setRet .writeExpired (logPort p .waitExpired (packetsOut p e bytes size j s))) := by
  obtain ⟨k, hk, hdone⟩ := done_write_expired (e := e) (size := size) (rest := bytes.drop ((j + 1) * size))
    (i := (j + 1) * size) (inFifo_packetsOut_ne_nil hs.1 e hone hfull) hused
  exact mainTurn_run hs.2 (turnStart_waiting hmain hret .toCaller polls ▸ hdone) (hk.trans hturn)

end

/-- Without a budget the wait has no bound (R245). -/
theorem budgetUsed_of_none {c : Params} (h : c.writeWaitBudget = none) (polls : Nat) : budgetUsed c polls = false := by
  simp only [budgetUsed, h]

/-- A budget of two polls or more is not used up by the first, which is made before the host can take the packet. -/
theorem budgetUsed_one {c : Params} (h : ∀ b : Nat, c.writeWaitBudget = some b → 2 ≤ b) : budgetUsed c 1 = false := by
  cases hb : c.writeWaitBudget with
  | none => exact budgetUsed_of_none hb 1
  | some b => exact (budgetUsed_of_some hb).trans (decide_eq_false (Nat.not_le.2 (h b hb)))

section
variable {p : Port} {e : EpNo} {bytes : List Byte} {size : Nat} {s : State} (hs : Ready p s) (hmain : s.main = [])
  (hempty : (hwOf s p).inFifo = []) (hone : 1 ≤ size) (hdepth : size ≤ s.cfg.inFifoDepth)
  (hmore : size < bytes.length) (hturn : size + 10 ≤ turnLength s)
include hs hmain hempty hone hdepth hmore hturn

/-- Budget `b + 1`: WRITE's own turn polls once, and the main agent's turns `b` times (R245). -/
theorem exec_write_expires {b : Nat} (hbudget : s.cfg.writeWaitBudget = some (b + 1)) :
    ∃ t0 : State, exec (.write p e bytes size) s = .next t0 ∧ mainSteps b t0
      = .next (setRet .writeExpired (logPort p .waitExpired (packetsOut p e bytes size 0 (setRet .nothing s)))) := by
  have hfull : (0 + 1) * size ≤ bytes.length := by omega
  cases b with
  | zero =>
    have hheld := inFifo_packetsOut_ne_nil (s := setRet .nothing s) hs.1 e hone hfull
    have hused : budgetUsed s.cfg (0 + 1) = true := by simp [budgetUsed_of_some hbudget]
    have hfirst := reaches_write_firstPacket (e := e) (s := setRet .nothing s) hs hempty hdepth hone hmore .toCaller
    exact ⟨_, hs.turn rfl (.after hfirst (done_write_expired hheld hused)) (by omega), rfl⟩
  | succ m =>
    have hleft (i : Nat) (hi : i ≤ 1 + m) : budgetUsed s.cfg i = false := by
      simp only [budgetUsed_of_some hbudget, decide_eq_false_iff_not]
      omega
    have hused : budgetUsed s.cfg (1 + m + 1) = true := by
      simp only [budgetUsed_of_some hbudget, decide_eq_true_eq]
      omega
    refine ⟨_, exec_write_waits hs hempty hdepth hmain hone hmore (by omega) (hleft 1 (by omega)), ?_⟩
    rw [mainSteps_add (mainSteps_polls (s := setRet .nothing s) hs hmain rfl hone hfull .toCaller
      (show 1 ≤ turnLength s by omega) m 1 hleft) 1]
    simp only [mainSteps, exec_mainStep_expires (s := setRet .nothing s) hs hmain rfl hone hfull
      (show 3 ≤ turnLength s by omega) hused]

end

/-- Settles O52: every turn of the main agent is one more poll, until a poll uses the budget up. -/
theorem writeWaitsForHost : Obligations.WriteWaitsForHost := by
  intro p e bytes size s hs hmain hempty hone hdepth hmore hturn
  have hfull : (0 + 1) * size ≤ bytes.length := by omega
  have hlen := length_packetOf (bytes := bytes) (size := size) (k := 0) hfull
  have hg : (packetsOut p e bytes size 0 (setRet .nothing s)).g
      = { s.g with obs := s.g.obs ++ [.inCommit p e size] } := by
    rw [g_packetsOut, replyTrace, hlen, g_setRet]
  cases hbudget : s.cfg.writeWaitBudget with
  | none =>
    have hleft := budgetUsed_of_none hbudget
    refine ⟨_, exec_write_waits hs hempty hdepth hmain hone hmore (by omega) (hleft 1), fun _ n => ?_, nofun⟩
    exact ⟨_, mainSteps_polls (s := setRet .nothing s) hs hmain rfl hone hfull .toCaller
      (show 1 ≤ turnLength s by omega) n 1 (fun i _ => hleft i), List.cons_ne_nil _ _, rfl, rfl, hg⟩
  | some c =>
    cases c with
    | zero =>
      obtain ⟨t0, ht0⟩ := startMain_answers [.writeStart p e bytes size .toCaller] s
      exact ⟨t0, (onPort_exists hs.1).trans ht0, nofun, nofun⟩
    | succ b =>
      obtain ⟨t0, ht0, ht⟩ := exec_write_expires hs hmain hempty hone hdepth hmore hturn hbudget
      refine ⟨t0, ht0, nofun, fun b' hb' => ?_⟩
      obtain rfl : b = b' := by simpa using hb'
      refine ⟨_, ht, hmain, rfl, hg, ?_, ?_⟩
      · rw [hwOf_setRet, logPort, hwOf_updSw, hwOf_packetsOut (s := setRet .nothing s) hs.1, replyHw, packetOf,
          Nat.zero_mul, List.drop_zero]
        rfl
      · have hsw : p < (packetsOut p e bytes size 0 (setRet .nothing s)).sw.length := hs.lt_sw
        rw [swOf_setRet, logPort, swOf_updSw_self hsw]
        rfl

/-! ## The host takes each packet (R243) -/

/-- The pieces of the bytes, joined again. -/
theorem flatten_packetsOf (bytes : List Byte) (size n : Nat) :
    ((List.range n).map (packetOf bytes size)).flatten ++ bytes.drop (n * size) = bytes := by
  induction n with
  | zero => simp
  | succ n ih =>
    rw [List.range_succ, List.map_append, List.flatten_append, List.append_assoc]
    simpa [packetOf_append_drop] using ih

theorem obs_afterTake (p : Port) (e : EpNo) (bytes : List Byte) (size j : Nat) (s : State) :
    (afterTake p e bytes size j s).g.obs
      = s.g.obs ++ (replyTrace p e bytes size j ++ [.inPacket p e (packetOf bytes size j)]) :=
  List.append_assoc ..

/-- Bytes that fit in one packet are one packet, no bytes too (R243). -/
theorem packetCount_one {len size : Nat} (hone : 1 ≤ size) (hfits : len ≤ size) :
    (if len = 0 then 1 else (len + size - 1) / size) = 1 := by
  split
  case isTrue => rfl
  case isFalse hlen => exact Nat.div_eq_of_lt_le (by omega) (by omega)

/-- A move that is not refused had its guard (42_register_ops.md section 7). -/
theorem guard_of_busMove {guard : State → Bool} {f : State → State} {s : State}
    (h : busMove guard f s = .next (setRet .nothing (f s))) : guard s = true := by
  by_contra hguard
  rw [busMove_disabled (Bool.eq_false_of_not_eq_true hguard)] at h
  cases congrArg State.ret (Host.Outcome.next.inj h)

section
variable {p : Port} {a : DevAddr} {e : EpNo} {bytes : List Byte} {size : Nat} {s : State} (hs : Ready p s)
  (hconnect : (hwOf s p).connect = true) (haddr : a = (hwOf s p).epcAddress)
  (hstall : stallBit (hwOf s p) .inp e = false)
include hs hconnect haddr hstall

/-- HOST_IN_TAKE of a packet in flight is made (`exec_hostInTake_waiting`), so its guard holds (R161). -/
theorem hostInGuard_packetsOut (j : Nat) : hostInGuard p a e (packetsOut p e bytes size j s) = true := by
  have hport : portExists p (waitingForHost p e bytes size .toCaller j 0 s) = true :=
    portExists_packetsOut hs.1 e bytes size j
  have htake := exec_hostInTake_waiting (bytes := bytes) (size := size) (r := .toCaller) hs hconnect haddr hstall j 0
  have hguard : hostInGuard p a e (waitingForHost p e bytes size .toCaller j 0 s) = true :=
    guard_of_busMove ((onPort_exists hport).symm.trans htake)
  exact hguard

/-- HOST_IN_TAKE of the last packet, after WRITE has returned. -/
theorem exec_hostInTake_lastPacket (r : Ret) (j : Nat) :
    exec (.hostInTake p a e) (setRet r (packetsOut p e bytes size j s))
      = .next (setRet .nothing (afterTake p e bytes size j s)) := by
  have hport : portExists p (setRet r (packetsOut p e bytes size j s)) = true := portExists_packetsOut hs.1 e bytes size j
  have hguard : hostInGuard p a e (setRet r (packetsOut p e bytes size j s)) = true :=
    hostInGuard_packetsOut hs hconnect haddr hstall j
  have hmove : setRet .nothing (hostInMove p e (setRet r (packetsOut p e bytes size j s)))
      = setRet .nothing (afterTake p e bytes size j s) := by
    rw [hostInMove, hwOf_setRet, inFifo_packetsOut hs.1]
    rfl
  exact hmove ▸ (onPort_exists hport).trans (busMove_enabled hguard)

/-- A WRITE whose packets the host takes, up to its return (R243). -/
theorem exec_write_taken (hmain : s.main = []) (hempty : (hwOf s p).inFifo = []) (hone : 1 ≤ size)
    (hdepth : size ≤ s.cfg.inFifoDepth) (hturn : size + 10 ≤ turnLength s) (hleft : budgetUsed s.cfg 1 = false)
    {count : Nat} (hcount : count = if bytes.length = 0 then 1 else (bytes.length + size - 1) / size) :
    ∃ j, count = j + 1 ∧ bytes.length ≤ (j + 1) * size ∧ ∃ t0, exec (.write p e bytes size) s = .next t0 ∧
      takeAndGoOn p a e j t0 = .next (setRet .writeOk (packetsOut p e bytes size j (setRet .nothing s))) := by
  by_cases hmore : size < bytes.length
  · rw [if_neg (by omega)] at hcount
    obtain ⟨m, rfl, hlt, hle⟩ := packetCount_eq hone hmore hcount
    refine ⟨m + 1, rfl, hle, _, exec_write_waits hs hempty hdepth hmain hone hmore (by omega) hleft, ?_⟩
    exact takeAndGoOn_reply (s := setRet .nothing s) (r := .toCaller) hs hmain rfl hdepth hconnect haddr hstall hone hleft m 0
      (show size + 3 + 0 ≤ turnLength s by omega) 0 1 _ (by rwa [Nat.zero_add]) (by rwa [Nat.zero_add])
      (by rw [Nat.zero_add]; exact .nil 0 _)
  · have hfits := Nat.le_of_not_lt hmore
    rw [packetCount_one hone hfits] at hcount
    have hwrite := done_write_onlyPacket (e := e) (s := setRet .nothing s) hs hempty hdepth hfits
    exact ⟨0, hcount, by omega, _, hs.turn rfl hwrite (by omega), rfl⟩

end

/-- Settles O51: after the turns in which the host takes the packets before it, the last packet stands in the FIFO; the host
takes it too. -/
theorem writePacketsReachHost : Obligations.WritePacketsReachHost := by
  intro p a e bytes size count s hs hmain hconnect haddr hstall hempty hone hdepth hturn hbudget hcount
  have hleft := budgetUsed_one hbudget
  obtain ⟨j, rfl, hall, t0, ht0, ht⟩ :=
    exec_write_taken hs hconnect haddr hstall hmain hempty hone hdepth hturn hleft hcount
  have hlast := exec_hostInTake_lastPacket (bytes := bytes) (size := size) (s := setRet .nothing s) hs hconnect haddr hstall
    .writeOk j
  refine ⟨t0, _, _, replyTrace p e bytes size j ++ [.inPacket p e (packetOf bytes size j)], ht0, ht, hmain, rfl, hlast,
    ?_, ?_, ?_, ?_, rfl⟩
  · exact obs_afterTake p e bytes size j (setRet .nothing s)
  · rw [← commitsIn_replyTrace p e]
    simp [commitsIn]
  · rw [List.range_succ, List.map_append, ← packetsIn_replyTrace p e]
    simp [packetsIn]
  · have hjoin := flatten_packetsOf bytes size (j + 1)
    rwa [List.drop_eq_nil_of_le hall, List.append_nil] at hjoin

end Sys2Proof.Machine
end

section
/-! PROOFS. O17: which contexts the fatal latch and a run of the dispatcher stop (60_exceptions.md R261; 20_memory.md R62;
log 16). Each way of performing an instruction (`Performs`) asks first whether its context may step. -/

namespace Sys2Proof.Machine

/-! ## What a stopped context answers -/

theorem mainEnabled_of_fatal {s : State} (h : s.g.fatal = true) : mainEnabled s = false := by
  simp [mainEnabled, h]

theorem mainEnabled_of_dispatcherRun {s : State} (h : s.irq ≠ []) : mainEnabled s = false := by
  simp [mainEnabled, h]

theorem mainTurn_disabled {s : State} (h : mainEnabled s = false) : mainTurn s = .next (setRet .disabled s) := by
  simp [mainTurn, h, notEnabled]

theorem irqAtomic_fatal {f : State → State} {s : State} (h : s.g.fatal = true) :
    irqAtomic f s = .next (setRet .disabled s) := if_pos h

theorem startIrq_fatal {ts : List Task} {s : State} (h : s.g.fatal = true) :
    startIrq ts s = .next (setRet .disabled s) := if_pos h

theorem irqTurn_fatal {s : State} (h : s.g.fatal = true) : irqTurn s = .next (setRet .disabled s) := if_pos h

/-! ## The instructions of each context -/

/-- Where the main context may not step, no instruction of the main agent does anything. -/
theorem Performs.main_disabled {op : Option Port} {f : State → Answer} (hf : Performs op .main f) {s : State}
    (hp : PortPresent op s) (he : mainEnabled s = false) : f s = .next (setRet .disabled s) := by
  cases hf
  case operation p o r => exact (onPort_exists (hp p rfl)).trans (mainAtomic_disabled he)
  case connect p sp => exact (onPort_exists (hp p rfl)).trans (mainAtomic_disabled he)
  case turn p ts _ => exact (onPort_exists (hp p rfl)).trans (startMain_disabled he)
  case pop => exact mainAtomic_disabled he
  case mainStep => exact mainTurn_disabled he

/-- With the fatal latch set no instruction of the interrupt agent does anything. -/
theorem Performs.interrupt_fatal {op : Option Port} {f : State → Answer} (hf : Performs op .interrupt f) {s : State}
    (hp : PortPresent op s) (hfatal : s.g.fatal = true) : f s = .next (setRet .disabled s) := by
  cases hf
  case handler p src => exact (onPort_exists (hp p rfl)).trans (startIrq_fatal hfatal)
  case unknown extra => exact startIrq_fatal hfatal
  case entry => exact irqTurn_fatal hfatal
  case pushOn p ev _ => exact (onPort_exists (hp p rfl)).trans (irqAtomic_fatal hfatal)
  case push ev _ => exact irqAtomic_fatal hfatal

theorem exec_main_disabled {i : Instr} {s : State} (hp : PortPresent (portOf i) s) (hi : agentOf i = .main)
    (he : mainEnabled s = false) : exec i s = .next (setRet .disabled s) := by
  have hf := exec_performs i
  rw [hi] at hf
  exact hf.main_disabled hp he

theorem exec_interrupt_fatal {i : Instr} {s : State} (hp : PortPresent (portOf i) s) (hi : agentOf i = .interrupt)
    (hfatal : s.g.fatal = true) : exec i s = .next (setRet .disabled s) := by
  have hf := exec_performs i
  rw [hi] at hf
  exact hf.interrupt_fatal hp hfatal

/-- Settles O17: the fatal latch stops both contexts, a run of the dispatcher the main one. -/
theorem haltedAndSuspendedContexts : Obligations.HaltedAndSuspendedContexts := by
  refine ⟨fun i s hp hfatal hi => ?_, fun i s hp hirq hi => ?_⟩
  · rcases hi with hi | hi
    · exact exec_interrupt_fatal hp hi hfatal
    · exact exec_main_disabled hp hi (mainEnabled_of_fatal hfatal)
  · exact exec_main_disabled hp hi (mainEnabled_of_dispatcherRun hirq)

end Sys2Proof.Machine
end

section
/-! PROOFS. O12: the boot sequence (70_reset_and_hazards.md R296) and the quiescent state it leaves (R297). For one port it comes
down to one write of the registers, one of the bookkeeping and five entries of the trace (`afterBoot`); for the ports in order
it is an induction over their number (`reaches_bootPorts`). -/

namespace Sys2Proof.Machine

/-! ## One port -/

/-- The operations of the boot sequence before CONNECT (R296). -/
def bootOps : List PortOp :=
  [.resetFifo .epc, .resetFifo .inp, .resetFifo .out, .setAddress 0,
   .clearPending .ctl, .clearPending .epc, .clearPending .out, .clearPending .inp,
   .enableInterrupt .ctl, .enableInterrupt .epc, .enableInterrupt .out, .enableInterrupt .inp]

/-- The registers the operations before CONNECT leave: empty, unaddressed, nothing pending, every source enabled. -/
def enabledRegs (h : HwPort) : HwPort :=
  { hwUnaddressed h with
    ie := ⟨true, true, true, true⟩, pend := .zero, epcFifo := [], inFifo := [], inFlight := false, outFifo := [],
    outPrimed := EpBits.zero }

/-- The registers CONNECT leaves when it reports the speed `sp`. -/
def connectRegs (sp : Speed) (h : HwPort) : HwPort := { h with connect := true, speed := sp }

/-- The registers the boot sequence leaves. -/
def bootRegs (sp : Speed) : HwPort → HwPort := connectRegs sp ∘ enabledRegs

/-- The bookkeeping the boot sequence leaves. -/
def bootSw (sp : Speed) (u : SwPort) : SwPort := { u with speed := sp }

/-- The trace of the boot sequence. -/
def bootTrace (p : Port) : List Obs :=
  [.fifoReset p .epc, .fifoReset p .inp, .fifoReset p .out, .addrWrite p 0, .connect p]

/-- The state after the boot sequence of a port; the speed is drawn (log 10). -/
def afterBoot (p : Port) (s : State) : State :=
  writeHw p (bootRegs (drawSpeed s)) (bootTrace p)
    (updSw p (bootSw (drawSpeed s)) { s with draws := s.draws + 1 })

@[simp] theorem speedOfCode_speedCode (sp : Speed) : speedOfCode (speedCode sp) = sp := by
  cases sp <;> rfl

theorem afterOps_boot (p : Port) (s : State) : afterOps p bootOps s =
    writeHw p enabledRegs [.fifoReset p .epc, .fifoReset p .inp, .fifoReset p .out, .addrWrite p 0] s := by
  have hreset (g : FifoGroup) (u : State) : opResetFifo p g u = writeHw p (resetFifoRegs g) [.fifoReset p g] u := rfl
  have haddress (u : State) : opSetAddress p 0 u = writeHw p hwUnaddressed [.addrWrite p 0] u := rfl
  simp only [afterOps, bootOps, List.foldl_cons, List.foldl_nil, callStep, goOn, opClearPending, opEnableInterrupt, hreset,
    haddress, updHw_eq_writeHw, writeHw_writeHw]
  rfl

/-- CONNECT, and the assignment of the speed it reports. -/
theorem reaches_bootConnect (p : Port) (s : State) : Reaches 2 [.bootConnect p] s []
    (writeHw p (connectRegs (drawSpeed s)) [.connect p]
      (updSw p (bootSw (drawSpeed s)) { s with draws := s.draws + 1 })) := by
  have hconnect : taskStep (.bootConnect p) s = goOn [.sw p (.speed (drawSpeed s))] (opConnectDrawn p s) := by
    rw [taskStep, speedOfCode_speedCode]
  exact (Reaches.step hconnect).trans (Reaches.step rfl)

theorem reaches_bootPort (p : Port) (s : State) : Reaches 14 (bootPort p) s [] (afterBoot p s) := by
  have hops := reaches_ops p bootOps rfl s
  rw [afterOps_boot] at hops
  have hmerge : writeHw p (connectRegs (drawSpeed s)) [.connect p]
      (writeHw p enabledRegs [.fifoReset p .epc, .fifoReset p .inp, .fifoReset p .out, .addrWrite p 0]
        (updSw p (bootSw (drawSpeed s)) { s with draws := s.draws + 1 })) = afterBoot p s := writeHw_writeHw ..
  rw [← hmerge]
  exact hops.seq (reaches_bootConnect p _)

theorem touches_afterBoot (p : Port) (s : State) : Touches p s (afterBoot p s) :=
  ((Touches.draw p s (s.draws + 1)).trans (.updSw ..)).trans (touches_writeHw ..)

theorem hwOf_afterBoot {p : Port} {s : State} (hp : p < s.hw.length) :
    hwOf (afterBoot p s) p = bootRegs (drawSpeed s) (hwOf s p) :=
  hwOf_updHw_self (s := updSw p (bootSw (drawSpeed s)) { s with draws := s.draws + 1 }) hp

theorem swOf_afterBoot {p : Port} {s : State} (hp : p < s.sw.length) :
    swOf (afterBoot p s) p = bootSw (drawSpeed s) (swOf s p) :=
  swOf_updSw_self (s := { s with draws := s.draws + 1 }) hp

/-! ## The ports in order -/

/-- Between `s` and `t` the boot sequence was performed on the first `n` ports, in order. -/
structure BootedTo (n : Nat) (s t : State) : Prop where
  booted : ∀ p < n, ∃ sp : Speed, hwOf t p = bootRegs sp (hwOf s p) ∧ swOf t p = bootSw sp (swOf s p)
  others : ∀ p, n ≤ p → hwOf t p = hwOf s p ∧ swOf t p = swOf s p
  hwLength : t.hw.length = s.hw.length
  swLength : t.sw.length = s.sw.length
  g : t.g = { s.g with obs := s.g.obs ++ (List.range n).flatMap bootTrace }

theorem BootedTo.zero (s : State) : BootedTo 0 s s := by
  constructor <;> simp

/-- The boot sequence of the next port. -/
theorem BootedTo.succ {n : Nat} {s t : State} (h : BootedTo n s t) (hhw : n < s.hw.length) (hsw : n < s.sw.length) :
    BootedTo (n + 1) s (afterBoot n t) := by
  have ht := touches_afterBoot n t
  obtain ⟨hhwn, hswn⟩ := h.others n le_rfl
  refine ⟨fun p hp => ?_, fun p hp => ?_, ht.hwLength.trans h.hwLength, ht.swLength.trans h.swLength, ?_⟩
  · rcases Nat.lt_succ_iff_lt_or_eq.1 hp with hlt | rfl
    · rw [ht.hw p hlt.ne, ht.sw p hlt.ne]
      exact h.booted p hlt
    · refine ⟨drawSpeed t, ?_, ?_⟩
      · rw [hwOf_afterBoot (h.hwLength ▸ hhw), hhwn]
      · rw [swOf_afterBoot (h.swLength ▸ hsw), hswn]
  · have hne : p ≠ n := by omega
    rw [ht.hw p hne, ht.sw p hne]
    exact h.others p (by omega)
  · change { t.g with obs := t.g.obs ++ bootTrace n } = _
    simp [h.g, List.range_succ]

theorem reaches_bootPorts (s : State) (n : Nat) (hhw : n ≤ s.hw.length) (hsw : n ≤ s.sw.length) :
    ∃ t : State, Reaches (14 * n) ((List.range n).flatMap bootPort) s [] t ∧ BootedTo n s t := by
  induction n with
  | zero => exact ⟨s, Reaches.refl _ _, .zero s⟩
  | succ n ih =>
    obtain ⟨t, hreach, hbooted⟩ := ih (by omega) (by omega)
    refine ⟨afterBoot n t, ?_, hbooted.succ hhw hsw⟩
    rw [List.range_succ, List.flatMap_append, List.flatMap_singleton]
    exact hreach.seq (reaches_bootPort n t)

/-! ## At power-on -/

/-- The main context's first work is the boot sequence (log 21). -/
theorem mainWork_powerOn {c : Params} (hc : 1 ≤ c.nports) : mainWork (State.powerOn c) = bootTasks c := by
  have hne : (State.powerOn c).main ≠ [] := by
    simp only [State.powerOn, bootTasks, bootPort, ne_eq, List.flatMap_eq_nil_iff, List.mem_range, not_forall]
    exact ⟨0, hc, by simp⟩
  obtain ⟨u, ts, h⟩ := List.exists_cons_of_ne_nil hne
  exact mainWork_cons h

/-- Power-on, with the boot sequence taken up as the main context's work. -/
def bootStart (c : Params) : State := { State.powerOn c with main := [] }

theorem BootedTo.booted_powerOn {n : Nat} {c : Params} {t : State} (h : BootedTo n (bootStart c) t) {p : Port}
    (hp : p < n) : ∃ sp : Speed, hwOf t p = bootRegs sp (HwPort.reset p) ∧ swOf t p = bootSw sp SwPort.reset := by
  simpa [bootStart] using h.booted p hp

/-- Booted or as at power-on, a port differs from its power-on value in the enables, the line and the speed only. -/
theorem BootedTo.regs_of_powerOn {n : Nat} {c : Params} {t : State} (h : BootedTo n (bootStart c) t) (p : Port) :
    ∃ (ie : SrcBits) (line : Bool) (sp sp' : Speed),
      hwOf t p = { HwPort.reset p with ie := ie, connect := line, speed := sp } ∧ swOf t p = bootSw sp' SwPort.reset := by
  by_cases hp : p < n
  · obtain ⟨sp, hhw, hsw⟩ := h.booted_powerOn hp
    exact ⟨_, _, _, _, hhw, hsw⟩
  · obtain ⟨hhw, hsw⟩ := h.others p (Nat.le_of_not_lt hp)
    exact ⟨_, _, _, .high, hhw.trans (hwOf_powerOn c p), hsw.trans (swOf_powerOn c p)⟩

theorem BootedTo.quiescent {n : Nat} {c : Params} {t : State} (h : BootedTo n (bootStart c) t) : Quiescent t := by
  refine ⟨fun p => ?_, by rw [h.g]; rfl⟩
  obtain ⟨ie, line, sp, sp', hhw, hsw⟩ := h.regs_of_powerOn p
  have hevq : t.g.evq = [] := by rw [h.g]; rfl
  constructor
  case cp => rw [hsw]; rfl
  case deferred => rw [hsw]; rfl
  case epcFifo => rw [hhw]; rfl
  case inFifo => rw [hhw]; rfl
  case outFifo => rw [hhw]; rfl
  case inFlight => rw [hhw]; rfl
  case outPrimed => rw [hhw]; exact epBit_zero
  case pend => rw [hhw]; rintro (_ | _ | _ | _) <;> rfl
  case evq => simp [hevq]

/-- From power-on the first turn of the main agent performs the boot sequence on every port. -/
theorem mainTurn_powerOn {c : Params} (hc : 1 ≤ c.nports) (hlen : 14 * c.nports ≤ Config.turnSteps) :
    ∃ t : State, mainTurn (State.powerOn c) = .next t ∧ t.main = [] ∧ BootedTo c.nports (bootStart c) t := by
  obtain ⟨t, hreach, hbooted⟩ := reaches_bootPorts (bootStart c) c.nports (by simp [bootStart, State.powerOn])
    (by simp [bootStart, State.powerOn])
  change Reaches _ (bootTasks c) _ _ _ at hreach
  rw [← mainWork_powerOn hc] at hreach
  exact ⟨t, mainTurn_run rfl hreach hlen, hreach.keeps.main, hbooted⟩

/-! ## At a reconnection -/

/-- With the reconnection of a port as APP's idle work, an idle turn of the main agent performs its boot sequence (log 13). -/
theorem mainStep_reconnect {p : Port} {s : State} (hs : Undisturbed p s 15) (hmain : s.main = []) (hq : s.g.evq = [])
    (happ : s.cfg.app.idle = [(p, .reconnect)]) : exec .mainStep s = .next (afterBoot p (setRet .nothing s)) := by
  obtain ⟨⟨-, he⟩, hlen⟩ := hs
  obtain ⟨n, hn⟩ : ∃ n, turnLength s = n + 1 := ⟨turnLength s - 1, by omega⟩
  have hidle : appIdleTasks s.cfg.app = bootPort p := by simp [appIdleTasks, happ, appTasks]
  rw [mainStep_idle he hmain hn hq, hidle]
  exact turnOf_run (reaches_bootPort p _) (by omega)

/-- Settles O12: at power-on by induction over the ports; at a reconnection it is one port's boot sequence. -/
theorem bootReachesQuiescentState : Obligations.BootReachesQuiescentState := by
  refine ⟨fun c hc hlen => ?powerOn, fun p s hs hmain hq happ => ?reconnect⟩
  case powerOn =>
    obtain ⟨t, ht, hmain, hbooted⟩ := mainTurn_powerOn hc hlen
    refine ⟨t, ht, hmain, hbooted.quiescent, fun p hp => ?_, by rw [hbooted.g]; rfl⟩
    obtain ⟨sp, hhw, hsw⟩ := hbooted.booted_powerOn hp
    rw [hhw, hsw]
    exact ⟨by rintro (_ | _ | _ | _) <;> rfl, rfl, rfl, rfl, rfl⟩
  case reconnect =>
    have ht := touches_afterBoot p (setRet .nothing s)
    exact ⟨_, drawSpeed (setRet .nothing s), mainStep_reconnect hs hmain hq happ, fun q hne => ⟨ht.hw q hne, ht.sw q hne⟩,
      hwOf_afterBoot (s := setRet .nothing s) hs.1.lt_hw, swOf_afterBoot (s := setRet .nothing s) hs.1.lt_sw, rfl⟩

end Sys2Proof.Machine
end

section
/-! PROOFS. O1: the decoder reads back every word the encoder writes (30_encoding.md R80 to R99; logs 3 and 6). The formats'
arguments (operand fields read back in their order, a packet's row, tables of the constants) are the lemmas of `Laws.RoundTrip`,
one for each constructor; what is left is that together they cover the instruction set. -/

namespace Sys2Proof.Laws.RoundTrip

/-- Every row of the opcode table is covered. -/
theorem decode_encode : ∀ i : Instr, Statement i
  -- 41_setup_decode.md: the decode and encode functions (OPIDX 0x01 to 0x0A)
  | .decRecipient rt => decRecipient rt
  | .decType rt => decType rt
  | .decDirection rt => decDirection rt
  | .decRequest rq => decRequest rq
  | .decSetup b => decSetup b
  | .encSetup s => encSetup s
  | .descSelect s => descSelect s
  | .featureSelect s => featureSelect s
  | .epAddrSplit ea => epAddrSplit ea
  | .devAddr s => devAddr s
  -- 42_register_ops.md: the register-layer operations (OPIDX 0x10 to 0x2A)
  | .enableInterrupt p src => enableInterrupt p src
  | .disableInterrupt p src => disableInterrupt p src
  | .clearPending p src => clearPending p src
  | .isPending p src => isPending p src
  | .connect p sp => connect p sp
  | .disconnect p => disconnect p
  | .ctlSpeed p => ctlSpeed p
  | .resetFifo p g => resetFifo p g
  | .setAddress p a => setAddress p a
  | .stallIn p e => stallIn p e
  | .stallOut p e => stallOut p e
  | .unstallIn p e => unstallIn p e
  | .unstallOut p e => unstallOut p e
  | .clearHalt p ea => clearHalt p ea
  | .outHasData p => outHasData p
  | .outPopByte p => outPopByte p
  | .ctrlHasData p => ctrlHasData p
  | .ctrlPopByte p => ctrlPopByte p
  | .ctrlEpno p => ctrlEpno p
  | .outEpno p => outEpno p
  | .outPrime p e => outPrime p e
  | .inPushByte p b => inPushByte p b
  | .inCommit p e => inCommit p e
  | .inIsIdle p => inIsIdle p
  | .inHasData p => inHasData p
  | .isStalled p d e => isStalled p d e
  | .inEpno p => inEpno p
  -- 42_register_ops.md section 7: the bus-agent moves (OPIDX 0x30 to 0x35)
  | .hostBusReset p sp => hostBusReset p sp
  | .hostSetup p a e bytes => hostSetup p a e bytes
  | .hostOutPacket p a e bytes => hostOutPacket p a e bytes
  | .hostInTake p a e => hostInTake p a e
  | .hostSeesStall p a d e => hostSeesStall p a d e
  | .spuriousIrq extra => spuriousIrq extra
  -- 43_dispatcher_queue.md: dispatcher, queue, main loop (OPIDX 0x40 to 0x48)
  | .irqEntry => irqEntry
  | .irqBusReset p => irqBusReset p
  | .irqReceiveControl p => irqReceiveControl p
  | .irqReceivePacket p => irqReceivePacket p
  | .irqSendComplete p => irqSendComplete p
  | .irqUnknown extra => irqUnknown extra
  | .evqPush ev => evqPush ev
  | .evqPop => evqPop
  | .mainStep => mainStep
  -- 44_control_engine.md: the control-transfer engine (OPIDX 0x50 to 0x5A)
  | .cteBusReset p => cteBusReset p
  | .cteReceiveControl p => cteReceiveControl p
  | .cteDispatch p => cteDispatch p
  | .ackStatusStage p => ackStatusStage p
  | .stallControlRequest p => stallControlRequest p
  | .sendResponse p bytes => sendResponse p bytes
  | .dataOutBegin p => dataOutBegin p
  | .cteReceivePacket p => cteReceivePacket p
  | .cteSendComplete p => cteSendComplete p
  | .cteDisconnect p => cteDisconnect p
  | .runHook p h k data => runHook p h k data
  -- 45_endpoint_io.md: the endpoint I/O primitives (OPIDX 0x60 to 0x63)
  | .read p f len => read p f len
  | .write p ep bytes size => write p ep bytes size
  | .writeZlp p ep => writeZlp p ep
  | .readControl p => readControl p
  -- 30_encoding.md R99: the request rows (SETUP64): the port and the packet
  | .reqGetStatus p s => reqGetStatus p s
  | .reqClearFeature p s => reqClearFeature p s
  | .reqReservedStd2 p s => reqReservedStd2 p s
  | .reqSetFeature p s => reqSetFeature p s
  | .reqReservedStd4 p s => reqReservedStd4 p s
  | .reqSetAddress p s => reqSetAddress p s
  | .reqGetDescriptor p s => reqGetDescriptor p s
  | .reqSetDescriptor p s => reqSetDescriptor p s
  | .reqGetConfiguration p s => reqGetConfiguration p s
  | .reqSetConfiguration p s => reqSetConfiguration p s
  | .reqGetInterface p s => reqGetInterface p s
  | .reqSetInterface p s => reqSetInterface p s
  | .reqSynchFrame p s => reqSynchFrame p s
  | .reqClassOrVendorStd13 p s => reqClassOrVendorStd13 p s
  | .reqClassOrVendorStd14To15 p s => reqClassOrVendorStd14To15 p s
  | .reqClassOrVendorStd16To31 p s => reqClassOrVendorStd16To31 p s
  | .reqClassOrVendorStd32To63 p s => reqClassOrVendorStd32To63 p s
  | .reqClassOrVendorStd64To127 p s => reqClassOrVendorStd64To127 p s
  | .reqClassOrVendorStd128To255 p s => reqClassOrVendorStd128To255 p s
  | .reqClassOrVendorClass p s => reqClassOrVendorClass p s
  | .reqClassOrVendorVendor p s => reqClassOrVendorVendor p s
  | .reqReservedType3 p s => reqReservedType3 p s
  | .reqGetDescriptorDevice p s => reqGetDescriptorDevice p s
  | .reqGetDescriptorConfiguration p s => reqGetDescriptorConfiguration p s
  | .reqGetDescriptorString p s => reqGetDescriptorString p s
  | .reqGetDescriptorDeviceQualifier p s => reqGetDescriptorDeviceQualifier p s
  | .reqClearFeatureEndpointHalt p s => reqClearFeatureEndpointHalt p s
  | .reqClearFeatureDeviceRemoteWakeup p s => reqClearFeatureDeviceRemoteWakeup p s
  | .reqSetFeatureEndpointHalt p s => reqSetFeatureEndpointHalt p s
  | .reqSetFeatureDeviceRemoteWakeup p s => reqSetFeatureDeviceRemoteWakeup p s
  -- 30_encoding.md: the rows of constants (RT8, REQ8, VALUE16, EPADDR8, PEND4, EVENT, SPEED2)
  | .recipientDevice rt => recipientDevice rt
  | .recipientInterface rt => recipientInterface rt
  | .recipientEndpoint rt => recipientEndpoint rt
  | .recipientOther rt => recipientOther rt
  | .recipientReserved4To7 rt => recipientReserved4To7 rt
  | .recipientReserved8To15 rt => recipientReserved8To15 rt
  | .recipientReserved16To31 rt => recipientReserved16To31 rt
  | .typeStandard rt => typeStandard rt
  | .typeClass rt => typeClass rt
  | .typeVendor rt => typeVendor rt
  | .typeReserved rt => typeReserved rt
  | .directionHostToDevice rt => directionHostToDevice rt
  | .directionDeviceToHost rt => directionDeviceToHost rt
  | .requestGetStatus => requestGetStatus
  | .requestClearFeature => requestClearFeature
  | .requestReserved2 => requestReserved2
  | .requestSetFeature => requestSetFeature
  | .requestReserved4 => requestReserved4
  | .requestSetAddress => requestSetAddress
  | .requestGetDescriptor => requestGetDescriptor
  | .requestSetDescriptor => requestSetDescriptor
  | .requestGetConfiguration => requestGetConfiguration
  | .requestSetConfiguration => requestSetConfiguration
  | .requestGetInterface => requestGetInterface
  | .requestSetInterface => requestSetInterface
  | .requestSynchronizeFrame => requestSynchronizeFrame
  | .requestClassOrVendor13 => requestClassOrVendor13
  | .requestClassOrVendor14To15 rq => requestClassOrVendor14To15 rq
  | .requestClassOrVendor16To31 rq => requestClassOrVendor16To31 rq
  | .requestClassOrVendor32To63 rq => requestClassOrVendor32To63 rq
  | .requestClassOrVendor64To127 rq => requestClassOrVendor64To127 rq
  | .requestClassOrVendor128To255 rq => requestClassOrVendor128To255 rq
  | .featureEndpointHalt => featureEndpointHalt
  | .featureDeviceRemoteWakeup => featureDeviceRemoteWakeup
  | .epaddrOut ea => epaddrOut ea
  | .epaddrIn ea => epaddrIn ea
  | .devAddrValid v => devAddrValid v
  | .pend4BusReset v => pend4BusReset v
  | .pend4ReceiveControl v => pend4ReceiveControl v
  | .pend4ReceivePacket v => pend4ReceivePacket v
  | .pend4SendComplete v => pend4SendComplete v
  | .pend4None v => pend4None v
  | .eventBusReset => eventBusReset
  | .eventReceiveControl => eventReceiveControl
  | .eventReceivePacket => eventReceivePacket
  | .eventSendComplete => eventSendComplete
  | .eventUnknownInterrupt => eventUnknownInterrupt
  | .eventError => eventError
  | .speedHigh => speedHigh
  | .speedFull => speedFull
  | .speedLow => speedLow
  | .speedSuperspeed => speedSuperspeed

/-- Settles O1, by `decode_encode`. -/
theorem decodeEncodeRoundTrip : Obligations.DecodeEncodeRoundTrip := decode_encode

end Sys2Proof.Laws.RoundTrip
end
